-- ==== Sys2Proof/Word.lean ====
section
/-! DEFINITION. The Word of the core (spec/00_scope.md R7), register numbers and memory cell numbers. -/

namespace Sys2Proof

/-- A Word: every general register, memory cell, instruction, ALU operand and ALU result
(00_scope.md R7; XLEN = 32 in R6). Arithmetic on it wraps modulo 2^32. -/
abbrev Word := BitVec 32

/-- The number of a general register, x0 to x31: the contents of a 5-bit field (10_state.md R10). -/
abbrev Reg := BitVec 5

/-- The number of a data memory cell, `dmem[0]` to `dmem[31]` (10_state.md R21). -/
abbrev DataCell := BitVec 5

end Sys2Proof
end

