-- ==== Sys2Proof/Machine/Alu.lean ====
section
/-! DEFINITION. The arithmetic-logic unit (spec/40_datapath.md R80 to R85): a pure function of two Words and one of 14
operations. -/

namespace Sys2Proof.Machine

/-- The 14 operations of the ALU, in the source's order (R80). -/
inductive AluOp where
  | add | sub | sll | slt | sltu | xor | srl | sra | or | and
  | seq | beqCmp | bltCmp | bltuCmp
  deriving DecidableEq, Repr

/-- The 4-bit code of an operation (R81; decision D6, log 7). -/
def AluOp.code : AluOp → BitVec 4
  | .add => 0 | .sub => 1 | .sll => 2 | .slt => 3 | .sltu => 4 | .xor => 5 | .srl => 6 | .sra => 7 | .or => 8
  | .and => 9 | .seq => 10 | .beqCmp => 11 | .bltCmp => 12 | .bltuCmp => 13

/-- The operation a 4-bit code names; codes 14 and 15 name none (R81). -/
def aluOpOfCode (c : BitVec 4) : Option AluOp :=
  [AluOp.add, .sub, .sll, .slt, .sltu, .xor, .srl, .sra, .or, .and, .seq, .beqCmp, .bltCmp, .bltuCmp][c.toNat]?

/-- A comparison used as a value: the Word 1 if true and the Word 0 if false (00_scope.md R7; R84). -/
def wordOfBool (b : Bool) : Word := if b then 1 else 0

/-- The shift amount, `b[4:0]` (R82). -/
def shiftAmount (b : Word) : Nat := (b.extractLsb' 0 5).toNat

/-- The result of the ALU for an operation of the set (R80). -/
def alu (op : AluOp) (a b : Word) : Word :=
  match op with
  | .add => a + b
  | .sub => a - b
  | .sll => a <<< shiftAmount b
  | .slt => wordOfBool (a.slt b)
  | .sltu => wordOfBool (a.ult b)
  | .xor => a ^^^ b
  | .srl => a >>> shiftAmount b
  | .sra => a.sshiftRight (shiftAmount b)
  | .or => a ||| b
  | .and => a &&& b
  | .seq => wordOfBool (a == b)
  | .beqCmp => wordOfBool (a == b)
  | .bltCmp => wordOfBool (a.slt b)
  | .bltuCmp => wordOfBool (a.ult b)

/-- The ALU addressed by a 4-bit code, total: "Unknown op codes return 0" (R85). The core never reaches that path. -/
def aluByCode (c : BitVec 4) (a b : Word) : Word :=
  match aluOpOfCode c with
  | some op => alu op a b
  | none => 0

end Sys2Proof.Machine
end

