-- ==== Sys2Proof/Syntax.lean ====
section
/-! DEFINITION. The instructions of the core, one constructor per row of spec/opcode_table.json, and the decoded
fields of a word (spec/30_encoding.md R51, R60).

An instruction carries EVERY bit of its word that its row does not fix, the bits the hardware does not examine
among them (R73: `funct7` of the register-register operations, `funct3` of lw and sw), so that no bit of an encoding is
dropped (log 18). That such a bit has no influence is what the meanings say: they do not take it. -/

namespace Sys2Proof

/-- One constructor per row of the opcode table, in the table's order. -/
inductive Instr where
  -- the three halting words (45_halt_and_unrecognised.md R145 to R147)
  | haltZero
  | haltEcall
  | haltEbreak
  -- register-register, opcode 0x33 (41_reg_reg.md R110 to R119)
  | add  (rd rs1 rs2 : Reg) (funct7 : BitVec 7)
  | sub  (rd rs1 rs2 : Reg) (funct7 : BitVec 7)
  | sll  (rd rs1 rs2 : Reg) (funct7 : BitVec 7)
  | slt  (rd rs1 rs2 : Reg) (funct7 : BitVec 7)
  | sltu (rd rs1 rs2 : Reg) (funct7 : BitVec 7)
  | xor  (rd rs1 rs2 : Reg) (funct7 : BitVec 7)
  | srl  (rd rs1 rs2 : Reg) (funct7 : BitVec 7)
  | sra  (rd rs1 rs2 : Reg) (funct7 : BitVec 7)
  | or   (rd rs1 rs2 : Reg) (funct7 : BitVec 7)
  | and  (rd rs1 rs2 : Reg) (funct7 : BitVec 7)
  -- register-immediate, opcode 0x13 (42_reg_imm.md R120 to R128)
  | addi  (rd rs1 : Reg) (imm : BitVec 12)
  | slli  (rd rs1 : Reg) (imm : BitVec 12)
  | slti  (rd rs1 : Reg) (imm : BitVec 12)
  | sltiu (rd rs1 : Reg) (imm : BitVec 12)
  | xori  (rd rs1 : Reg) (imm : BitVec 12)
  | srli  (rd rs1 : Reg) (imm : BitVec 12)
  | srai  (rd rs1 : Reg) (imm : BitVec 12)
  | ori   (rd rs1 : Reg) (imm : BitVec 12)
  | andi  (rd rs1 : Reg) (imm : BitVec 12)
  -- load and store, opcodes 0x03 and 0x23 (43_load_store.md R130, R131)
  | lw (rd rs1 : Reg) (imm : BitVec 12) (funct3 : BitVec 3)
  | sw (rs2 rs1 : Reg) (imm : BitVec 12) (funct3 : BitVec 3)
  -- conditional branches, opcode 0x63 (44_branch.md R135 to R140); the offset is the 13-bit even byte offset
  | beq  (rs1 rs2 : Reg) (offset : BitVec 13)
  | bne  (rs1 rs2 : Reg) (offset : BitVec 13)
  | blt  (rs1 rs2 : Reg) (offset : BitVec 13)
  | bge  (rs1 rs2 : Reg) (offset : BitVec 13)
  | bltu (rs1 rs2 : Reg) (offset : BitVec 13)
  | bgeu (rs1 rs2 : Reg) (offset : BitVec 13)
  -- opcode 0x63 with the two other funct3 values (45_halt_and_unrecognised.md R154)
  | branchFunct3_010 (rs1 rs2 : Reg) (offset : BitVec 13)
  | branchFunct3_011 (rs1 rs2 : Reg) (offset : BitVec 13)
  -- encode-only (R151, R152); jal's offset is the 21-bit even byte offset
  | lui (rd : Reg) (imm : BitVec 20)
  | jal (rd : Reg) (offset : BitVec 21)
  -- every other word (R150, R153)
  | unrecognised (funct7 : BitVec 7) (rs2 rs1 : Reg) (funct3 : BitVec 3) (rd : Reg) (opcode : BitVec 7)
  deriving DecidableEq, Repr

/-- The immediate-format tag (30_encoding.md R59). -/
inductive FormatTag where
  | I | S | B | none
  deriving DecidableEq, Repr

/-- The decoded-instruction record (30_encoding.md R60). -/
structure Decoded where
  opcode : BitVec 7
  rd     : Reg
  funct3 : BitVec 3
  rs1    : Reg
  rs2    : Reg
  funct7 : BitVec 7
  tag    : FormatTag
  imm    : Word
  deriving DecidableEq, Repr

end Sys2Proof
end

