-- ==== Sys2Proof/Decode.lean ====
section
/-! DEFINITION. The bit fields of an instruction word, the field decoder and the six encoders of
spec/30_encoding.md, the decoder from words to `Instr`, and AFTER it the encoder from `Instr` to words. Every 32-bit word
decodes (R60, R72: "decoders never fail"), so there is nothing to reject but a request for more bits than an instruction
has. -/

namespace Sys2Proof

/-- A bit field put into a wider vector with its bit 0 at bit `lo`, zeros elsewhere. `{a, b}` of the spec's notation
(00_scope.md R7) is the `|||` of its pieces, each put in its place. -/
def putAt {n : Nat} (m lo : Nat) (v : BitVec n) : BitVec m := v.setWidth m <<< lo

/-! ## Fields at fixed positions (R51) -/

def opcodeOf (w : Word) : BitVec 7 := w.extractLsb' 0 7
def rdOf (w : Word) : Reg := w.extractLsb' 7 5
def funct3Of (w : Word) : BitVec 3 := w.extractLsb' 12 3
def rs1Of (w : Word) : Reg := w.extractLsb' 15 5
def rs2Of (w : Word) : Reg := w.extractLsb' 20 5
def funct7Of (w : Word) : BitVec 7 := w.extractLsb' 25 7

/-- Word bit 30, which is bit 5 of funct7 and bit 10 of the I immediate: the one funct7 bit the hardware examines
(R70; decision D8, log 9). -/
def bit30 (w : Word) : Bool := w.getLsbD 30

/-! ## Immediates as they stand in the word -/

/-- The I immediate, `w[31:20]` (R53). -/
def immIOf (w : Word) : BitVec 12 := w.extractLsb' 20 12

/-- The S immediate, `{w[31:25], w[11:7]}` (R54). -/
def immSOf (w : Word) : BitVec 12 := putAt 12 5 (w.extractLsb' 25 7) ||| putAt 12 0 (w.extractLsb' 7 5)

/-- The B immediate, `{w[31], w[7], w[30:25], w[11:8], 0}` (R55; positions log 8). -/
def immBOf (w : Word) : BitVec 13 :=
  putAt 13 12 (w.extractLsb' 31 1) ||| putAt 13 11 (w.extractLsb' 7 1) ||| putAt 13 5 (w.extractLsb' 25 6) |||
    putAt 13 1 (w.extractLsb' 8 4)

/-- The U immediate, `w[31:12]` (R56; log 8). The core's decoder has no U case; only `Instr` shows it. -/
def immUOf (w : Word) : BitVec 20 := w.extractLsb' 12 20

/-- The J immediate, `{w[31], w[19:12], w[20], w[30:21], 0}` (R57; log 8). The core's decoder has no J case. -/
def immJOf (w : Word) : BitVec 21 :=
  putAt 21 20 (w.extractLsb' 31 1) ||| putAt 21 12 (w.extractLsb' 12 8) ||| putAt 21 11 (w.extractLsb' 20 1) |||
    putAt 21 1 (w.extractLsb' 21 10)

/-- `sext_12` (00_scope.md R7; 30_encoding.md R58). -/
def sext12 (v : BitVec 12) : Word := v.signExtend 32

/-- `sext_13` (00_scope.md R7; 30_encoding.md R58). -/
def sext13 (v : BitVec 13) : Word := v.signExtend 32

/-! ## The decoder of the core (R59, R60) -/

/-- The immediate-format tag, chosen by the opcode alone (R59; decision D12, log 13). -/
def tagOf (opcode : BitVec 7) : FormatTag :=
  if opcode = 0x13 ∨ opcode = 0x03 then .I
  else if opcode = 0x23 then .S
  else if opcode = 0x63 then .B
  else .none

/-- The decoded immediate for a tag; 0 when the tag is `none` (R59, R60). -/
def immOf (tag : FormatTag) (w : Word) : Word :=
  match tag with
  | .I => sext12 (immIOf w)
  | .S => sext12 (immSOf w)
  | .B => sext13 (immBOf w)
  | .none => 0

/-- The field decoder, total on words (R60). -/
def decodeFields (w : Word) : Decoded where
  opcode := opcodeOf w
  rd     := rdOf w
  funct3 := funct3Of w
  rs1    := rs1Of w
  rs2    := rs2Of w
  funct7 := funct7Of w
  tag    := tagOf (opcodeOf w)
  imm    := immOf (tagOf (opcodeOf w)) w

/-! ## From words to instructions (R69 to R73) -/

/-- The whole-word test for the three halting words (R71). -/
def isHaltingWord (w : Word) : Bool := w == 0x00000000 || w == 0x00000073 || w == 0x00100073

/-- Opcode 0x33: funct3 selects, and word bit 30 for funct3 000 and 101 (R70). -/
def decodeRegReg (w : Word) : Instr :=
  let rd := rdOf w; let rs1 := rs1Of w; let rs2 := rs2Of w; let f7 := funct7Of w
  if funct3Of w = 0b000 then (if bit30 w then .sub rd rs1 rs2 f7 else .add rd rs1 rs2 f7)
  else if funct3Of w = 0b001 then .sll rd rs1 rs2 f7
  else if funct3Of w = 0b010 then .slt rd rs1 rs2 f7
  else if funct3Of w = 0b011 then .sltu rd rs1 rs2 f7
  else if funct3Of w = 0b100 then .xor rd rs1 rs2 f7
  else if funct3Of w = 0b101 then (if bit30 w then .sra rd rs1 rs2 f7 else .srl rd rs1 rs2 f7)
  else if funct3Of w = 0b110 then .or rd rs1 rs2 f7
  else .and rd rs1 rs2 f7 -- funct3 = 111, the one value left

/-- Opcode 0x13: funct3 selects, and word bit 30 for funct3 101 only (R70). -/
def decodeRegImm (w : Word) : Instr :=
  let rd := rdOf w; let rs1 := rs1Of w; let imm := immIOf w
  if funct3Of w = 0b000 then .addi rd rs1 imm
  else if funct3Of w = 0b001 then .slli rd rs1 imm
  else if funct3Of w = 0b010 then .slti rd rs1 imm
  else if funct3Of w = 0b011 then .sltiu rd rs1 imm
  else if funct3Of w = 0b100 then .xori rd rs1 imm
  else if funct3Of w = 0b101 then (if bit30 w then .srai rd rs1 imm else .srli rd rs1 imm)
  else if funct3Of w = 0b110 then .ori rd rs1 imm
  else .andi rd rs1 imm -- funct3 = 111, the one value left

/-- Opcode 0x63: funct3 selects one of the six branches or one of the two no-op rows (R70, R72). -/
def decodeBranch (w : Word) : Instr :=
  let rs1 := rs1Of w; let rs2 := rs2Of w; let offset := immBOf w
  if funct3Of w = 0b000 then .beq rs1 rs2 offset
  else if funct3Of w = 0b001 then .bne rs1 rs2 offset
  else if funct3Of w = 0b010 then .branchFunct3_010 rs1 rs2 offset
  else if funct3Of w = 0b011 then .branchFunct3_011 rs1 rs2 offset
  else if funct3Of w = 0b100 then .blt rs1 rs2 offset
  else if funct3Of w = 0b101 then .bge rs1 rs2 offset
  else if funct3Of w = 0b110 then .bltu rs1 rs2 offset
  else .bgeu rs1 rs2 offset -- funct3 = 111, the one value left

/-- The instruction a word stands for: the halting words first, by all 32 bits (R71), then the opcode (R69), then
funct3 and word bit 30 (R70). Total (R72). -/
def decode (w : Word) : Instr :=
  if w = 0x00000000 then .haltZero
  else if w = 0x00000073 then .haltEcall
  else if w = 0x00100073 then .haltEbreak
  else if opcodeOf w = 0x33 then decodeRegReg w
  else if opcodeOf w = 0x13 then decodeRegImm w
  else if opcodeOf w = 0x03 then .lw (rdOf w) (rs1Of w) (immIOf w) (funct3Of w)
  else if opcodeOf w = 0x23 then .sw (rs2Of w) (rs1Of w) (immSOf w) (funct3Of w)
  else if opcodeOf w = 0x63 then decodeBranch w
  else if opcodeOf w = 0x37 then .lui (rdOf w) (immUOf w)
  else if opcodeOf w = 0x6F then .jal (rdOf w) (immJOf w)
  else .unrecognised (funct7Of w) (rs2Of w) (rs1Of w) (funct3Of w) (rdOf w) (opcodeOf w)

/-! ## The host's table words -/

/-- The word whose low `nbits` bits are those of `w` and whose other bits are 0. -/
def tableWord (nbits w : Nat) : Word := BitVec.ofNat 32 (w % 2 ^ nbits)

/-- What the decoder reads from an instruction of the opcode table: one word of 32 bits (R50). It refuses only a
request for more bits than an instruction has. -/
def decodeTableWord (nbits w : Nat) : Option Instr :=
  if nbits ≤ 32 then some (decode (tableWord nbits w)) else none

/-! ## The formats (R52 to R57): words from fields -/

/-- R-format (R52). -/
def packR (funct7 : BitVec 7) (rs2 rs1 : Reg) (funct3 : BitVec 3) (rd : Reg) (opcode : BitVec 7) : Word :=
  putAt 32 25 funct7 ||| putAt 32 20 rs2 ||| putAt 32 15 rs1 ||| putAt 32 12 funct3 ||| putAt 32 7 rd ||| putAt 32 0 opcode

/-- I-format (R53). -/
def packI (imm : BitVec 12) (rs1 : Reg) (funct3 : BitVec 3) (rd : Reg) (opcode : BitVec 7) : Word :=
  putAt 32 20 imm ||| putAt 32 15 rs1 ||| putAt 32 12 funct3 ||| putAt 32 7 rd ||| putAt 32 0 opcode

/-- S-format (R54). -/
def packS (imm : BitVec 12) (rs2 rs1 : Reg) (funct3 : BitVec 3) (opcode : BitVec 7) : Word :=
  putAt 32 25 (imm.extractLsb' 5 7) ||| putAt 32 20 rs2 ||| putAt 32 15 rs1 ||| putAt 32 12 funct3 |||
    putAt 32 7 (imm.extractLsb' 0 5) ||| putAt 32 0 opcode

/-- B-format (R55); bit 0 of the offset is not stored. -/
def packB (offset : BitVec 13) (rs2 rs1 : Reg) (funct3 : BitVec 3) (opcode : BitVec 7) : Word :=
  putAt 32 31 (offset.extractLsb' 12 1) ||| putAt 32 25 (offset.extractLsb' 5 6) ||| putAt 32 20 rs2 ||| putAt 32 15 rs1 |||
    putAt 32 12 funct3 ||| putAt 32 8 (offset.extractLsb' 1 4) ||| putAt 32 7 (offset.extractLsb' 11 1) ||| putAt 32 0 opcode

/-- U-format (R56). -/
def packU (imm : BitVec 20) (rd : Reg) (opcode : BitVec 7) : Word :=
  putAt 32 12 imm ||| putAt 32 7 rd ||| putAt 32 0 opcode

/-- J-format (R57); bit 0 of the offset is not stored. -/
def packJ (offset : BitVec 21) (rd : Reg) (opcode : BitVec 7) : Word :=
  putAt 32 31 (offset.extractLsb' 20 1) ||| putAt 32 21 (offset.extractLsb' 1 10) ||| putAt 32 20 (offset.extractLsb' 11 1) |||
    putAt 32 12 (offset.extractLsb' 12 8) ||| putAt 32 7 rd ||| putAt 32 0 opcode

/-! ## The encoders of the source (R61 to R67): any integer arguments, each masked to its width, never failing -/

def encodeR (funct7 rs2 rs1 funct3 rd opcode : Int) : Word :=
  packR (BitVec.ofInt 7 funct7) (BitVec.ofInt 5 rs2) (BitVec.ofInt 5 rs1) (BitVec.ofInt 3 funct3) (BitVec.ofInt 5 rd)
    (BitVec.ofInt 7 opcode)

def encodeI (imm rs1 funct3 rd opcode : Int) : Word :=
  packI (BitVec.ofInt 12 imm) (BitVec.ofInt 5 rs1) (BitVec.ofInt 3 funct3) (BitVec.ofInt 5 rd) (BitVec.ofInt 7 opcode)

def encodeS (imm rs2 rs1 funct3 opcode : Int) : Word :=
  packS (BitVec.ofInt 12 imm) (BitVec.ofInt 5 rs2) (BitVec.ofInt 5 rs1) (BitVec.ofInt 3 funct3) (BitVec.ofInt 7 opcode)

def encodeB (imm rs2 rs1 funct3 opcode : Int) : Word :=
  packB (BitVec.ofInt 13 imm) (BitVec.ofInt 5 rs2) (BitVec.ofInt 5 rs1) (BitVec.ofInt 3 funct3) (BitVec.ofInt 7 opcode)

def encodeU (imm20 rd opcode : Int) : Word :=
  packU (BitVec.ofInt 20 imm20) (BitVec.ofInt 5 rd) (BitVec.ofInt 7 opcode)

def encodeJ (imm rd opcode : Int) : Word :=
  packJ (BitVec.ofInt 21 imm) (BitVec.ofInt 5 rd) (BitVec.ofInt 7 opcode)

/-! ## From instructions to words -/

/-- The word of an instruction, written from the same encoding tables (R52 to R57, R70, R71). -/
def encode : Instr → Word
  | .haltZero => 0x00000000
  | .haltEcall => 0x00000073
  | .haltEbreak => 0x00100073
  | .add rd rs1 rs2 funct7 => packR funct7 rs2 rs1 0b000 rd 0x33
  | .sub rd rs1 rs2 funct7 => packR funct7 rs2 rs1 0b000 rd 0x33
  | .sll rd rs1 rs2 funct7 => packR funct7 rs2 rs1 0b001 rd 0x33
  | .slt rd rs1 rs2 funct7 => packR funct7 rs2 rs1 0b010 rd 0x33
  | .sltu rd rs1 rs2 funct7 => packR funct7 rs2 rs1 0b011 rd 0x33
  | .xor rd rs1 rs2 funct7 => packR funct7 rs2 rs1 0b100 rd 0x33
  | .srl rd rs1 rs2 funct7 => packR funct7 rs2 rs1 0b101 rd 0x33
  | .sra rd rs1 rs2 funct7 => packR funct7 rs2 rs1 0b101 rd 0x33
  | .or rd rs1 rs2 funct7 => packR funct7 rs2 rs1 0b110 rd 0x33
  | .and rd rs1 rs2 funct7 => packR funct7 rs2 rs1 0b111 rd 0x33
  | .addi rd rs1 imm => packI imm rs1 0b000 rd 0x13
  | .slli rd rs1 imm => packI imm rs1 0b001 rd 0x13
  | .slti rd rs1 imm => packI imm rs1 0b010 rd 0x13
  | .sltiu rd rs1 imm => packI imm rs1 0b011 rd 0x13
  | .xori rd rs1 imm => packI imm rs1 0b100 rd 0x13
  | .srli rd rs1 imm => packI imm rs1 0b101 rd 0x13
  | .srai rd rs1 imm => packI imm rs1 0b101 rd 0x13
  | .ori rd rs1 imm => packI imm rs1 0b110 rd 0x13
  | .andi rd rs1 imm => packI imm rs1 0b111 rd 0x13
  | .lw rd rs1 imm funct3 => packI imm rs1 funct3 rd 0x03
  | .sw rs2 rs1 imm funct3 => packS imm rs2 rs1 funct3 0x23
  | .beq rs1 rs2 offset => packB offset rs2 rs1 0b000 0x63
  | .bne rs1 rs2 offset => packB offset rs2 rs1 0b001 0x63
  | .blt rs1 rs2 offset => packB offset rs2 rs1 0b100 0x63
  | .bge rs1 rs2 offset => packB offset rs2 rs1 0b101 0x63
  | .bltu rs1 rs2 offset => packB offset rs2 rs1 0b110 0x63
  | .bgeu rs1 rs2 offset => packB offset rs2 rs1 0b111 0x63
  | .branchFunct3_010 rs1 rs2 offset => packB offset rs2 rs1 0b010 0x63
  | .branchFunct3_011 rs1 rs2 offset => packB offset rs2 rs1 0b011 0x63
  | .lui rd imm => packU imm rd 0x37
  | .jal rd offset => packJ offset rd 0x6F
  | .unrecognised funct7 rs2 rs1 funct3 rd opcode => packR funct7 rs2 rs1 funct3 rd opcode

/-! ## The opcode table -/

/-- The mnemonic of an instruction, as spec/opcode_table.json spells it. -/
def Instr.mnemonic : Instr → String
  | .haltZero => "halt.zero" | .haltEcall => "halt.ecall" | .haltEbreak => "halt.ebreak"
  | .add _ _ _ _ => "add" | .sub _ _ _ _ => "sub" | .sll _ _ _ _ => "sll" | .slt _ _ _ _ => "slt"
  | .sltu _ _ _ _ => "sltu" | .xor _ _ _ _ => "xor" | .srl _ _ _ _ => "srl" | .sra _ _ _ _ => "sra"
  | .or _ _ _ _ => "or" | .and _ _ _ _ => "and"
  | .addi _ _ _ => "addi" | .slli _ _ _ => "slli" | .slti _ _ _ => "slti" | .sltiu _ _ _ => "sltiu"
  | .xori _ _ _ => "xori" | .srli _ _ _ => "srli" | .srai _ _ _ => "srai" | .ori _ _ _ => "ori"
  | .andi _ _ _ => "andi"
  | .lw _ _ _ _ => "lw" | .sw _ _ _ _ => "sw"
  | .beq _ _ _ => "beq" | .bne _ _ _ => "bne" | .blt _ _ _ => "blt" | .bge _ _ _ => "bge"
  | .bltu _ _ _ => "bltu" | .bgeu _ _ _ => "bgeu"
  | .branchFunct3_010 _ _ _ => "branch.funct3_010" | .branchFunct3_011 _ _ _ => "branch.funct3_011"
  | .lui _ _ => "lui" | .jal _ _ => "jal"
  | .unrecognised _ _ _ _ _ _ => "unrecognised"

/-- One row of spec/opcode_table.json: its mnemonic, mask and match. -/
structure TableRow where
  mnemonic : String
  mask : Word
  pattern : Word
  deriving DecidableEq, Repr

/-- The rows of spec/opcode_table.json in priority order (first match wins), copied from its match and mask. -/
def opcodeTable : List TableRow :=
  [ ⟨"halt.zero", 0xFFFFFFFF, 0x00000000⟩, ⟨"halt.ecall", 0xFFFFFFFF, 0x00000073⟩,
    ⟨"halt.ebreak", 0xFFFFFFFF, 0x00100073⟩ ] ++
  [ ⟨"add", 0x4000707F, 0x00000033⟩, ⟨"sub", 0x4000707F, 0x40000033⟩, ⟨"sll", 0x0000707F, 0x00001033⟩,
    ⟨"slt", 0x0000707F, 0x00002033⟩, ⟨"sltu", 0x0000707F, 0x00003033⟩, ⟨"xor", 0x0000707F, 0x00004033⟩,
    ⟨"srl", 0x4000707F, 0x00005033⟩, ⟨"sra", 0x4000707F, 0x40005033⟩, ⟨"or", 0x0000707F, 0x00006033⟩,
    ⟨"and", 0x0000707F, 0x00007033⟩ ] ++
  [ ⟨"addi", 0x0000707F, 0x00000013⟩, ⟨"slli", 0x0000707F, 0x00001013⟩, ⟨"slti", 0x0000707F, 0x00002013⟩,
    ⟨"sltiu", 0x0000707F, 0x00003013⟩, ⟨"xori", 0x0000707F, 0x00004013⟩, ⟨"srli", 0x4000707F, 0x00005013⟩,
    ⟨"srai", 0x4000707F, 0x40005013⟩, ⟨"ori", 0x0000707F, 0x00006013⟩, ⟨"andi", 0x0000707F, 0x00007013⟩ ] ++
  [ ⟨"lw", 0x0000007F, 0x00000003⟩, ⟨"sw", 0x0000007F, 0x00000023⟩ ] ++
  [ ⟨"beq", 0x0000707F, 0x00000063⟩, ⟨"bne", 0x0000707F, 0x00001063⟩, ⟨"blt", 0x0000707F, 0x00004063⟩,
    ⟨"bge", 0x0000707F, 0x00005063⟩, ⟨"bltu", 0x0000707F, 0x00006063⟩, ⟨"bgeu", 0x0000707F, 0x00007063⟩,
    ⟨"branch.funct3_010", 0x0000707F, 0x00002063⟩, ⟨"branch.funct3_011", 0x0000707F, 0x00003063⟩ ] ++
  [ ⟨"lui", 0x0000007F, 0x00000037⟩, ⟨"jal", 0x0000007F, 0x0000006F⟩, ⟨"unrecognised", 0x00000000, 0x00000000⟩ ]

/-- The first row of the table that takes a word: under the row's mask the word is the row's match. -/
def firstTableRow (w : Word) : Option TableRow := opcodeTable.find? fun r => w &&& r.mask == r.pattern

end Sys2Proof
end

