-- ==== Sys2Proof/Config.lean ====
section
/-! DEFINITION. The open parameters of the core: the reset patterns whose values the source never prints
(spec/00_scope.md R6; 92_eei_decisions.md D1, D2; 93_implementation_defined.md U1). Free values: no proof can see
what they are. -/

namespace Sys2Proof

/-- The values `REG_SEED(i)` that reset gives the registers x1 to x31 (10_state.md R13). The same at every reset.
DESIGN CHOICE (log 1): a constant with no body stands for the open parameter; the value at 0 is never used. -/
opaque Config.regPattern : Reg → Word

/-- `REG_SEED`, with `REG_SEED(0) = 0` (10_state.md R13). -/
def Config.regSeed (r : Reg) : Word := if r = 0 then 0 else Config.regPattern r

/-- `DMEM_SEED(k)`, what reset gives data memory cell k (10_state.md R21). The same at every reset.
DESIGN CHOICE (log 2): a constant with no body stands for the open parameter. -/
opaque Config.dmemSeed : DataCell → Word

end Sys2Proof
end

