-- ==== Sys2Proof/Machine/State.lean ====
section
/-! DEFINITION. The architectural state of the core (spec/10_state.md), plain data, its reset value, and the reasons a
step can stop. -/

namespace Sys2Proof.Machine

/-- Everything the spec gives the core ("That is the whole architectural state", 10_state.md; table R29). -/
structure State where
  /-- The 32 cells of the register file (R10). Cell 0 is never read and never written (R11; log 21). -/
  regs : Vector Word 32
  /-- The program counter: byte address of the next instruction, bits [1:0] kept 0 (R14, R15). -/
  pc : Word
  /-- The halted flag, the only status flag (R19). -/
  halted : Bool
  /-- The cycle counter: executed instructions modulo 2^32 (R20). -/
  cycle : Word
  /-- Data memory, `dmem[0]` to `dmem[31]`, an array of Words (R21; 20_memory.md R38; log 3). -/
  dmem : Vector Word 32
  /-- Instruction memory, `imem[0]` to `imem[255]`, an array of Words (R22; 20_memory.md R38; log 3). -/
  imem : Vector Word 256
  deriving DecidableEq, Repr

/-- Why a step stops with a fault: never. The core raises no exception of any kind and no step can fail
(60_exceptions.md R220; 40_datapath.md R100; log 33), so there is no constructor. -/
inductive Fault where
  deriving DecidableEq, Repr

/-- Why a step has no meaning. -/
inductive Refusal where
  /-- Raised only by an arm of `exec` whose instruction has no meaning yet; safe. No arm raises it: every row of the
  opcode table is modelled. -/
  | notModelled (mnemonic : String)
  deriving DecidableEq, Repr

/-- The three outcomes of a step of this core. -/
abbrev Result := Host.Outcome State Fault Refusal

/-- The core at power-on: the reset state with every instruction cell 0 (10_state.md R29; 70_reset_and_hazards.md
R240, R241; log 4). The registers and data memory hold their seeds, the open parameters of Config (logs 1, 2). -/
def State.reset : State where
  regs := Vector.ofFn fun i => Config.regSeed (BitVec.ofFin i)
  pc := 0
  halted := false
  cycle := 0
  dmem := Vector.ofFn fun k => Config.dmemSeed (BitVec.ofFin k)
  imem := Vector.replicate 256 0

end Sys2Proof.Machine
end

