-- ==== Sys2Proof/Machine/Ops.lean ====
section
/-! DEFINITION. The named operations over registers, memories, the program counter and the halted flag that every
instruction shares (the pseudocode primitives of spec/00_scope.md R8). The core has no exception to take: what stands in
its place is `State.halt` (60_exceptions.md R220, R222), and the only return from it is reset (R227). -/

namespace Sys2Proof.Machine

/-! ## General registers -/

/-- `x[r]`: the Word 0 for register 0, the stored Word for the others (00_scope.md R8; 10_state.md R11). -/
def State.x (s : State) (r : Reg) : Word := if r = 0 then 0 else s.regs[r.toNat]

/-- `x[r] <- v`: a write to register 0 is discarded (00_scope.md R8; 10_state.md R11). -/
def State.writeReg (s : State) (r : Reg) (v : Word) : State :=
  if r = 0 then s else { s with regs := s.regs.set r.toNat v }

/-! ## Data memory -/

/-- The cell a data address names: address bits [6:2] (20_memory.md R31 to R34). -/
def dataCell (addr : Word) : DataCell := addr.extractLsb' 2 5

/-- `dmem[k]`. -/
def State.cell (s : State) (k : DataCell) : Word := s.dmem[k.toNat]

/-- `dmem[k] <- v`. -/
def State.setCell (s : State) (k : DataCell) (v : Word) : State := { s with dmem := s.dmem.set k.toNat v }

/-- `MemRead(addr, 4)` (20_memory.md R31). -/
def State.memRead (s : State) (addr : Word) : Word := s.cell (dataCell addr)

/-- `MemWrite(addr, 4, v)` (20_memory.md R32). -/
def State.memWrite (s : State) (addr : Word) (v : Word) : State := s.setCell (dataCell addr) v

/-- The little-endian byte view of a Word: byte `j` holds bits `[8j+7 : 8j]` (20_memory.md R38; log 3). -/
def byteOfWord (v : Word) (j : BitVec 2) : BitVec 8 := v.extractLsb' (8 * j.toNat) 8

/-- The byte at a data address. No instruction reads a byte; statements use this view (20_memory.md R38; log 3). -/
def State.dataByte (s : State) (addr : Word) : BitVec 8 := byteOfWord (s.memRead addr) (addr.extractLsb' 0 2)

/-! ## Program counter and instruction memory -/

/-- The value `pc <- t` stores: `{t[31:2], 0b00}` (10_state.md R15; log 5). -/
def alignPc (t : Word) : Word := t &&& 0xFFFFFFFC

/-- `pc <- t` (00_scope.md R8; 10_state.md R15). -/
def State.setPc (s : State) (t : Word) : State := { s with pc := alignPc t }

/-- The fetch index `pc[31:2]`, not masked (20_memory.md R36). -/
def fetchIndex (pc : Word) : BitVec 30 := pc.extractLsb' 2 30

/-- `IFetch(pc)`: the Word of the cell, or none when the index is 256 or more (20_memory.md R36; log 15). -/
def State.fetch (s : State) : Option Word :=
  if h : (fetchIndex s.pc).toNat < 256 then some (s.imem[(fetchIndex s.pc).toNat]) else none

/-- The byte at an instruction address, for statements; none from 1024 up (20_memory.md R38, R39; log 3). -/
def State.instrByte (s : State) (addr : Word) : Option (BitVec 8) :=
  if h : (fetchIndex addr).toNat < 256 then
    some (byteOfWord (s.imem[(fetchIndex addr).toNat]) (addr.extractLsb' 0 2))
  else none

/-- A word placed where the next step fetches, for `State.withFetchWord`: in the cell the pc names, with the halted flag
clear; where the pc is out of range, in cell 0 with the pc at 0 (log 20). -/
def State.placeFetchWord (s : State) (w : Word) : State :=
  if h : (fetchIndex s.pc).toNat < 256 then
    { s with imem := s.imem.set (fetchIndex s.pc).toNat w, halted := false }
  else { s with imem := s.imem.set 0 w, pc := 0, halted := false }

/-! ## Retiring an instruction, halting, reset -/

/-- `cycle <- cycle + 1` (10_state.md R20; log 6). -/
def State.tick (s : State) : State := { s with cycle := s.cycle + 1 }

/-- The end of an executed instruction whose next address is `t`: `pc <- t; cycle <- cycle + 1`
(40_datapath.md R95, R99). -/
def State.retireTo (s : State) (t : Word) : State := (s.setPc t).tick

/-- The end of an executed instruction that does not branch: `pc <- pc + 4; cycle <- cycle + 1`. -/
def State.retire (s : State) : State := s.retireTo (s.pc + 4)

/-- The `halt` primitive: `halted <- 1` and nothing else (00_scope.md R8; 60_exceptions.md R222, R223, R226). Nothing is
saved and control goes nowhere. -/
def State.halt (s : State) : State := { s with halted := true }

/-- Reset, a request of the host: everything to its reset value, instruction memory untouched
(70_reset_and_hazards.md R240, R242; 47_host_interface.md R209). With program load, which ends in it, the only way out of
the halted state (60_exceptions.md R227). -/
def State.resetCore (s : State) : State := { State.reset with imem := s.imem }

end Sys2Proof.Machine
end

