-- ==== Sys2Proof/Machine/Operands.lean ====
section
/-! DEFINITION. The four operand forms of the core (spec/30_encoding.md R75): a register, a sign-extended 12-bit
immediate, a sign-extended 13-bit even byte offset relative to the branch's own address, and a base-plus-displacement
data address. -/

namespace Sys2Proof.Machine

/-- A register operand, read before anything is written (10_state.md R12). -/
def State.regOperand (s : State) (r : Reg) : Word := s.x r

/-- The immediate operand of the register-immediate operations (30_encoding.md R58). -/
def immOperand (imm : BitVec 12) : Word := sext12 imm

/-- The address of a taken branch: `pc + imm`, modulo 2^32, the offset already in bytes (40_datapath.md R96;
30_encoding.md R55). The pc keeps its low bits 0 when it is assigned (`State.setPc`). -/
def State.branchTarget (s : State) (offset : BitVec 13) : Word := s.pc + sext13 offset

/-- The effective address of a load or store: `x[rs1] + imm`, modulo 2^32 (20_memory.md R46). -/
def State.effectiveAddress (s : State) (rs1 : Reg) (imm : BitVec 12) : Word := s.regOperand rs1 + sext12 imm

end Sys2Proof.Machine
end

