-- ==== Sys2Proof/Machine/Branch.lean ====
section
/-! DEFINITION. The six conditional branches (spec/44_branch.md), opcode 0x63, one template. -/

namespace Sys2Proof.Machine

/-- The template of 44_branch.md: `c = alu(x[rs1], x[rs2], CMP); taken = c[0] xor branch_invert;
pc <- taken ? pc + imm : pc + 4; cycle <- cycle + 1`. The offset counts from the branch's own address (40_datapath.md R96)
and the target's low two bits are dropped by `pc <-` (R141; decision D4, log 5). Writes no register and no memory. -/
def runBranch (cmp : AluOp) (invert : Bool) (rs1 rs2 : Reg) (offset : BitVec 13) (s : State) : Result :=
  let c := alu cmp (s.regOperand rs1) (s.regOperand rs2)
  .next (s.retireTo (if c.getLsbD 0 ^^ invert then s.branchTarget offset else s.pc + 4))

/-- BEQ (R135): taken when the registers are equal. -/
def execBeq (rs1 rs2 : Reg) (offset : BitVec 13) (s : State) : Result := runBranch .beqCmp false rs1 rs2 offset s

/-- BNE (R136): taken when the registers differ. -/
def execBne (rs1 rs2 : Reg) (offset : BitVec 13) (s : State) : Result := runBranch .beqCmp true rs1 rs2 offset s

/-- BLT (R137): taken when `x[rs1]` is less than `x[rs2]`, signed. -/
def execBlt (rs1 rs2 : Reg) (offset : BitVec 13) (s : State) : Result := runBranch .bltCmp false rs1 rs2 offset s

/-- BGE (R138): taken when `x[rs1]` is not less than `x[rs2]`, signed. -/
def execBge (rs1 rs2 : Reg) (offset : BitVec 13) (s : State) : Result := runBranch .bltCmp true rs1 rs2 offset s

/-- BLTU (R139): taken when `x[rs1]` is less than `x[rs2]`, unsigned. -/
def execBltu (rs1 rs2 : Reg) (offset : BitVec 13) (s : State) : Result := runBranch .bltuCmp false rs1 rs2 offset s

/-- BGEU (R140): taken when `x[rs1]` is not less than `x[rs2]`, unsigned. -/
def execBgeu (rs1 rs2 : Reg) (offset : BitVec 13) (s : State) : Result := runBranch .bltuCmp true rs1 rs2 offset s

end Sys2Proof.Machine
end

