-- ==== Sys2Proof/Machine/HaltNoOp.lean ====
section
/-! DEFINITION. The halting words and the words that execute as no-ops (spec/45_halt_and_unrecognised.md). -/

namespace Sys2Proof.Machine

/-- The zero word (R145): `halted <- 1`, nothing else. -/
def execHaltZero (s : State) : Result := .next s.halt

/-- The word 0x00000073 (R146): halts exactly as the zero word does. -/
def execHaltEcall (s : State) : Result := .next s.halt

/-- The word 0x00100073 (R147): halts exactly as the zero word does. -/
def execHaltEbreak (s : State) : Result := .next s.halt

/-- The no-op of R150: `pc <- pc + 4; cycle <- cycle + 1`, no register and no memory written (decision D11, log 12). -/
def runNoOp (s : State) : Result := .next s.retire

/-- Opcode 0x63 with funct3 010 (R154; decision D10, log 11): the no-op of R150. -/
def execBranchFunct3_010 (s : State) : Result := runNoOp s

/-- Opcode 0x63 with funct3 011 (R154; decision D10, log 11): the no-op of R150. -/
def execBranchFunct3_011 (s : State) : Result := runNoOp s

/-- LUI is encode-only (R151; decision D18, log 17): the no-op of R150, `rd` is not written. -/
def execLui (s : State) : Result := runNoOp s

/-- JAL is encode-only (R152; decision D18, log 17): the no-op of R150, no jump and no link. -/
def execJal (s : State) : Result := runNoOp s

/-- Every word no other row takes (R150, R153): the no-op of R150. -/
def execUnrecognised (s : State) : Result := runNoOp s

end Sys2Proof.Machine
end

