-- ==== Sys2Proof/Machine/LoadStore.lean ====
section
/-! DEFINITION. LW and SW (spec/43_load_store.md), the only instructions that touch data memory (20_memory.md R46). -/

namespace Sys2Proof.Machine

/-- LW (R130): `addr = x[rs1] + imm; x[rd] <- MemRead(addr, 4); pc <- pc + 4; cycle <- cycle + 1`. The whole cell is
loaded, and every word with opcode 0x03 is this instruction whatever its funct3 (decision D9, log 10). -/
def execLw (rd rs1 : Reg) (imm : BitVec 12) (s : State) : Result :=
  .next (s.writeReg rd (s.memRead (s.effectiveAddress rs1 imm))).retire

/-- SW (R131): `addr = x[rs1] + imm; MemWrite(addr, 4, x[rs2]); pc <- pc + 4; cycle <- cycle + 1`. The whole cell is
replaced, and every word with opcode 0x23 is this instruction whatever its funct3 (decision D9, log 10). -/
def execSw (rs2 rs1 : Reg) (imm : BitVec 12) (s : State) : Result :=
  .next (s.memWrite (s.effectiveAddress rs1 imm) (s.regOperand rs2)).retire

end Sys2Proof.Machine
end

