-- ==== Sys2Proof/Machine/RegImm.lean ====
section
/-! DEFINITION. The nine register-immediate instructions (spec/42_reg_imm.md), opcode 0x13, one template. -/

namespace Sys2Proof.Machine

/-- The template of 42_reg_imm.md: `x[rd] <- alu(x[rs1], imm, OP); pc <- pc + 4; cycle <- cycle + 1`, with `imm` the whole
sign-extended immediate, also for the shifts (30_encoding.md R58). -/
def runRegImm (op : AluOp) (rd rs1 : Reg) (imm : BitVec 12) (s : State) : Result :=
  .next (s.writeReg rd (alu op (s.regOperand rs1) (immOperand imm))).retire

/-- ADDI (R120): `x[rd] <- x[rs1] + imm` modulo 2^32, whatever word bit 30 is. -/
def execAddi (rd rs1 : Reg) (imm : BitVec 12) (s : State) : Result := runRegImm .add rd rs1 imm s

/-- SLLI (R121): shift left by `imm[4:0]`; the other immediate bits are not examined. -/
def execSlli (rd rs1 : Reg) (imm : BitVec 12) (s : State) : Result := runRegImm .sll rd rs1 imm s

/-- SLTI (R122): 1 if `x[rs1]` is less than the immediate, both signed, else 0. -/
def execSlti (rd rs1 : Reg) (imm : BitVec 12) (s : State) : Result := runRegImm .slt rd rs1 imm s

/-- SLTIU (R123): 1 if `x[rs1]` is less than the sign-extended immediate, both read as unsigned, else 0. -/
def execSltiu (rd rs1 : Reg) (imm : BitVec 12) (s : State) : Result := runRegImm .sltu rd rs1 imm s

/-- XORI (R124): bitwise exclusive or with the sign-extended immediate. -/
def execXori (rd rs1 : Reg) (imm : BitVec 12) (s : State) : Result := runRegImm .xor rd rs1 imm s

/-- SRLI (R125): shift right by `imm[4:0]`, zeros entering. -/
def execSrli (rd rs1 : Reg) (imm : BitVec 12) (s : State) : Result := runRegImm .srl rd rs1 imm s

/-- SRAI (R126): shift right by `imm[4:0]`, copies of bit 31 entering; the immediate is `0x400 | shamt` in canonical form. -/
def execSrai (rd rs1 : Reg) (imm : BitVec 12) (s : State) : Result := runRegImm .sra rd rs1 imm s

/-- ORI (R127): bitwise or with the sign-extended immediate. -/
def execOri (rd rs1 : Reg) (imm : BitVec 12) (s : State) : Result := runRegImm .or rd rs1 imm s

/-- ANDI (R128): bitwise and with the sign-extended immediate. -/
def execAndi (rd rs1 : Reg) (imm : BitVec 12) (s : State) : Result := runRegImm .and rd rs1 imm s

end Sys2Proof.Machine
end

