-- ==== Sys2Proof/Machine/RegReg.lean ====
section
/-! DEFINITION. The ten register-register instructions (spec/41_reg_reg.md), opcode 0x33, one template. -/

namespace Sys2Proof.Machine

/-- The template of 41_reg_reg.md: `x[rd] <- alu(x[rs1], x[rs2], OP); pc <- pc + 4; cycle <- cycle + 1`. Both sources are
read before the destination is written; a destination x0 discards the result (R98 of 40_datapath.md). -/
def runRegReg (op : AluOp) (rd rs1 rs2 : Reg) (s : State) : Result :=
  .next (s.writeReg rd (alu op (s.regOperand rs1) (s.regOperand rs2))).retire

/-- ADD (R110): `x[rd] <- x[rs1] + x[rs2]` modulo 2^32; overflow wraps and is not reported. -/
def execAdd (rd rs1 rs2 : Reg) (s : State) : Result := runRegReg .add rd rs1 rs2 s

/-- SUB (R111): `x[rd] <- x[rs1] - x[rs2]` modulo 2^32; borrow wraps and is not reported. -/
def execSub (rd rs1 rs2 : Reg) (s : State) : Result := runRegReg .sub rd rs1 rs2 s

/-- SLL (R112): shift left by `x[rs2][4:0]`. -/
def execSll (rd rs1 rs2 : Reg) (s : State) : Result := runRegReg .sll rd rs1 rs2 s

/-- SLT (R113): 1 if `x[rs1]` is less than `x[rs2]`, both signed, else 0. -/
def execSlt (rd rs1 rs2 : Reg) (s : State) : Result := runRegReg .slt rd rs1 rs2 s

/-- SLTU (R114): 1 if `x[rs1]` is less than `x[rs2]`, both unsigned, else 0. -/
def execSltu (rd rs1 rs2 : Reg) (s : State) : Result := runRegReg .sltu rd rs1 rs2 s

/-- XOR (R115): bitwise exclusive or. -/
def execXor (rd rs1 rs2 : Reg) (s : State) : Result := runRegReg .xor rd rs1 rs2 s

/-- SRL (R116): shift right by `x[rs2][4:0]`, zeros entering. -/
def execSrl (rd rs1 rs2 : Reg) (s : State) : Result := runRegReg .srl rd rs1 rs2 s

/-- SRA (R117): shift right by `x[rs2][4:0]`, copies of bit 31 entering. -/
def execSra (rd rs1 rs2 : Reg) (s : State) : Result := runRegReg .sra rd rs1 rs2 s

/-- OR (R118): bitwise or. -/
def execOr (rd rs1 rs2 : Reg) (s : State) : Result := runRegReg .or rd rs1 rs2 s

/-- AND (R119): bitwise and. -/
def execAnd (rd rs1 rs2 : Reg) (s : State) : Result := runRegReg .and rd rs1 rs2 s

end Sys2Proof.Machine
end

