-- ==== Sys2Proof/Machine/Dispatch.lean ====
section
/-! DEFINITION. What each instruction does: one arm per constructor of `Instr`, one direct call of its meaning. -/

namespace Sys2Proof.Machine

def exec (i : Instr) (s : State) : Host.Outcome State Fault Refusal :=
  match i with
  | .haltZero => Sys2Proof.Machine.execHaltZero s
  | .haltEcall => Sys2Proof.Machine.execHaltEcall s
  | .haltEbreak => Sys2Proof.Machine.execHaltEbreak s
  | .add rd rs1 rs2 _ => Sys2Proof.Machine.execAdd rd rs1 rs2 s
  | .sub rd rs1 rs2 _ => Sys2Proof.Machine.execSub rd rs1 rs2 s
  | .sll rd rs1 rs2 _ => Sys2Proof.Machine.execSll rd rs1 rs2 s
  | .slt rd rs1 rs2 _ => Sys2Proof.Machine.execSlt rd rs1 rs2 s
  | .sltu rd rs1 rs2 _ => Sys2Proof.Machine.execSltu rd rs1 rs2 s
  | .xor rd rs1 rs2 _ => Sys2Proof.Machine.execXor rd rs1 rs2 s
  | .srl rd rs1 rs2 _ => Sys2Proof.Machine.execSrl rd rs1 rs2 s
  | .sra rd rs1 rs2 _ => Sys2Proof.Machine.execSra rd rs1 rs2 s
  | .or rd rs1 rs2 _ => Sys2Proof.Machine.execOr rd rs1 rs2 s
  | .and rd rs1 rs2 _ => Sys2Proof.Machine.execAnd rd rs1 rs2 s
  | .addi rd rs1 imm => Sys2Proof.Machine.execAddi rd rs1 imm s
  | .slli rd rs1 imm => Sys2Proof.Machine.execSlli rd rs1 imm s
  | .slti rd rs1 imm => Sys2Proof.Machine.execSlti rd rs1 imm s
  | .sltiu rd rs1 imm => Sys2Proof.Machine.execSltiu rd rs1 imm s
  | .xori rd rs1 imm => Sys2Proof.Machine.execXori rd rs1 imm s
  | .srli rd rs1 imm => Sys2Proof.Machine.execSrli rd rs1 imm s
  | .srai rd rs1 imm => Sys2Proof.Machine.execSrai rd rs1 imm s
  | .ori rd rs1 imm => Sys2Proof.Machine.execOri rd rs1 imm s
  | .andi rd rs1 imm => Sys2Proof.Machine.execAndi rd rs1 imm s
  | .lw rd rs1 imm _ => Sys2Proof.Machine.execLw rd rs1 imm s
  | .sw rs2 rs1 imm _ => Sys2Proof.Machine.execSw rs2 rs1 imm s
  | .beq rs1 rs2 offset => Sys2Proof.Machine.execBeq rs1 rs2 offset s
  | .bne rs1 rs2 offset => Sys2Proof.Machine.execBne rs1 rs2 offset s
  | .blt rs1 rs2 offset => Sys2Proof.Machine.execBlt rs1 rs2 offset s
  | .bge rs1 rs2 offset => Sys2Proof.Machine.execBge rs1 rs2 offset s
  | .bltu rs1 rs2 offset => Sys2Proof.Machine.execBltu rs1 rs2 offset s
  | .bgeu rs1 rs2 offset => Sys2Proof.Machine.execBgeu rs1 rs2 offset s
  | .branchFunct3_010 _ _ _ => Sys2Proof.Machine.execBranchFunct3_010 s
  | .branchFunct3_011 _ _ _ => Sys2Proof.Machine.execBranchFunct3_011 s
  | .lui _ _ => Sys2Proof.Machine.execLui s
  | .jal _ _ => Sys2Proof.Machine.execJal s
  | .unrecognised _ _ _ _ _ _ => Sys2Proof.Machine.execUnrecognised s

end Sys2Proof.Machine
end

