-- ==== Sys2Proof/Machine/Step.lean ====
section
/-! DEFINITION. The one transition of the core, and the placing of a word where it fetches. -/

namespace Sys2Proof.Machine

/-- `step` (spec/40_datapath.md R92, R95; order of the checks 60_exceptions.md R225): a halted core does nothing (log 19);
an out-of-range fetch halts; otherwise the fetched word's instruction runs, the halting words among them. The same
transition, phase by phase through the control table, is `datapathStep` of Machine/Datapath.lean. -/
def step (s : State) : Host.Outcome State Fault Refusal :=
  if s.halted then .next s
  else
    match s.fetch with
    | none => .next s.halt
    | some w => exec (decode w) s

/-- The state with an instruction of the opcode table placed where the next step fetches (log 20). -/
def State.withFetchWord (s : State) (nbits w : Nat) : State := s.placeFetchWord (tableWord nbits w)

end Sys2Proof.Machine
end

