-- ==== Sys2Proof/Machine/Control.lean ====
section
/-! DEFINITION. The control unit (spec/40_datapath.md R88 to R91): a pure decision table from opcode, funct3 and bit 5 of
funct7 to the opcode class and the six control signals. -/

namespace Sys2Proof.Machine

/-- The opcode class of an instruction (R89). -/
inductive OpClass where
  | R | IAlu | Load | Store | Branch | Unrecognised
  deriving DecidableEq, Repr

/-- The six control signals (R88). -/
structure ControlSignals where
  operandBIsImmediate : Bool
  writeBackUsesMemory : Bool
  dataMemoryWriteEnable : Bool
  branchEnable : Bool
  branchInvert : Bool
  aluOperation : AluOp
  deriving DecidableEq, Repr

/-- The default: all-zero signals, whose ALU code 0 is ADD (R91, R81). -/
def ControlSignals.none : ControlSignals := ⟨false, false, false, false, false, .add⟩

/-- The operation of the table shared by the R and I-ALU rows: funct3 selects, and `altAdd` and `altShift` (word
bit 30, where the row examines it) tell SUB from ADD and SRA from SRL (R90; funct3 values log 8). -/
def arithmeticOp (funct3 : BitVec 3) (altAdd altShift : Bool) : AluOp :=
  if funct3 = 0b000 then (if altAdd then .sub else .add)
  else if funct3 = 0b001 then .sll
  else if funct3 = 0b010 then .slt
  else if funct3 = 0b011 then .sltu
  else if funct3 = 0b100 then .xor
  else if funct3 = 0b101 then (if altShift then .sra else .srl)
  else if funct3 = 0b110 then .or
  else .and

/-- The comparator and polarity of a branch row, for the six funct3 values that have one (R90). -/
def branchCondition (funct3 : BitVec 3) : Option (AluOp × Bool) :=
  if funct3 = 0b000 then some (.beqCmp, false)
  else if funct3 = 0b001 then some (.beqCmp, true)
  else if funct3 = 0b100 then some (.bltCmp, false)
  else if funct3 = 0b101 then some (.bltCmp, true)
  else if funct3 = 0b110 then some (.bltuCmp, false)
  else if funct3 = 0b111 then some (.bltuCmp, true)
  else none

/-- The control table, complete (R90), and the class (R89). In the I-ALU rows bit 30 is examined for funct3 101 only. The
Load and Store rows do not examine funct3 (decision D9, log 10); opcode 0x63 with funct3 010 or 011 takes the default
(decision D10, log 11). -/
def control (opcode : BitVec 7) (funct3 : BitVec 3) (funct7 : BitVec 7) : OpClass × ControlSignals :=
  let f7b := funct7.getLsbD 5
  if opcode = 0x33 then (.R, ⟨false, false, false, false, false, arithmeticOp funct3 f7b f7b⟩)
  else if opcode = 0x13 then (.IAlu, ⟨true, false, false, false, false, arithmeticOp funct3 false f7b⟩)
  else if opcode = 0x03 then (.Load, ⟨true, true, false, false, false, .add⟩)
  else if opcode = 0x23 then (.Store, ⟨true, false, true, false, false, .add⟩)
  else if opcode = 0x63 then
    match branchCondition funct3 with
    | some (cmp, invert) => (.Branch, ⟨false, false, false, true, invert, cmp⟩)
    | none => (.Unrecognised, ControlSignals.none)
  else (.Unrecognised, ControlSignals.none)

end Sys2Proof.Machine
end

