-- ==== Sys2Proof/Machine/Datapath.lean ====
section
/-! DEFINITION. The step of spec/40_datapath.md section 3 as the hardware performs it: five phases driven by the decoded
fields and the control signals, the step result handed to the host (spec/47_host_interface.md R203 to R208), and the
phase-by-phase entry point. `runStep` transcribes the pseudocode of R95; that its state is the one `step` reaches is a
statement for the provers. Nothing here is state (10_state.md R26). -/

namespace Sys2Proof.Machine

/-- The five phases, in their fixed order (R92; 47_host_interface.md R204). -/
inductive Phase where
  | fetch | decode | execute | memory | writeBack
  deriving DecidableEq, Repr

/-- What phase 3 reads and computes (R93). -/
structure ExecuteResult where
  a   : Word
  r2  : Word
  b   : Word
  res : Word
  deriving DecidableEq, Repr

/-- The data access of a Load or Store: byte address, cell index, the Word read or written (47_host_interface.md R206). -/
structure MemoryAccess where
  address : Word
  index   : DataCell
  data    : Word
  isWrite : Bool
  deriving DecidableEq, Repr

/-- Write-back target and value, reported whether or not the write is enabled (R98). -/
structure WriteBack where
  target : Reg
  value  : Word
  deriving DecidableEq, Repr

/-- The step result (47_host_interface.md R206, R207; field names log 34). An `Option` field is `none` where the phase that
produces it has not run, or produces none. DESIGN CHOICE (log 35): the two flags `wbEnable` and `haltedNow` have no such
value and show `false` in a partial result until the phase that produces them has run; a halting step sets `haltedNow` in
its fetch and has `wbEnable` 0 by R207. -/
structure StepResult where
  instr     : Option Word
  pcBefore  : Word
  pcAfter   : Option Word
  decoded   : Option Decoded
  control   : Option ControlSignals
  execute   : Option ExecuteResult
  memory    : Option MemoryAccess
  wbEnable  : Bool
  writeBack : Option WriteBack
  haltedNow : Bool
  deriving DecidableEq, Repr

/-! ## The phases -/

/-- The class and signals for a decoded instruction (R93). -/
def controlOf (d : Decoded) : OpClass × ControlSignals := control d.opcode d.funct3 d.funct7

/-- Phase 3 (R93): both registers are read whatever the class; operand B is the immediate or `r2`. -/
def executePhase (d : Decoded) (c : ControlSignals) (s : State) : ExecuteResult :=
  let a := s.x d.rs1
  let r2 := s.x d.rs2
  let b := if c.operandBIsImmediate then d.imm else r2
  ⟨a, r2, b, alu c.aluOperation a b⟩

/-- The access of phase 4, if there is one (R94): a write if enabled, else a read if the opcode is Load's. -/
def memoryAccess (d : Decoded) (c : ControlSignals) (e : ExecuteResult) (s : State) : Option MemoryAccess :=
  if c.dataMemoryWriteEnable then some ⟨e.res, dataCell e.res, e.r2, true⟩
  else if d.opcode = 0x03 then some ⟨e.res, dataCell e.res, s.memRead e.res, false⟩
  else none

/-- The state after phase 4 (R94): the store data is the `rs2` register value. -/
def memoryPhase (c : ControlSignals) (e : ExecuteResult) (s : State) : State :=
  if c.dataMemoryWriteEnable then s.memWrite e.res e.r2 else s

/-- The branch is taken: `branch_enable and (res[0] xor branch_invert)` (R96). -/
def branchTaken (c : ControlSignals) (e : ExecuteResult) : Bool := c.branchEnable && (e.res.getLsbD 0 ^^ c.branchInvert)

/-- The next pc before its low bits are dropped (R95, R96). -/
def nextPc (d : Decoded) (c : ControlSignals) (e : ExecuteResult) (s : State) : Word :=
  if branchTaken c e then s.pc + d.imm else s.pc + 4

/-- The write-back multiplexer (R97): the memory-data register for loads, otherwise the ALU result. -/
def writeBackValue (c : ControlSignals) (e : ExecuteResult) (m : Option MemoryAccess) : Word :=
  match c.writeBackUsesMemory, m with
  | true, some access => access.data
  | _, _ => e.res

/-- `wb_enable` (R98; decision D11, log 12). -/
def writeBackEnable (cls : OpClass) (d : Decoded) : Bool :=
  (cls == .R || cls == .IAlu || cls == .Load) && d.rd != 0

/-- The commit of phase 5 (R95): the register, the pc and the cycle counter, one indivisible commit
(47_host_interface.md R208; decision D25, log 24). -/
def writeBackPhase (cls : OpClass) (d : Decoded) (c : ControlSignals) (e : ExecuteResult) (m : Option MemoryAccess)
    (s : State) : State :=
  ((if writeBackEnable cls d then s.writeReg d.rd (writeBackValue c e m) else s).retireTo (nextPc d c e s))

/-! ## Results -/

/-- The halt-marked result (47_host_interface.md R207; decision D14, log 14): the halting word, or no word for an
out-of-range fetch. -/
def haltResult (instr : Option Word) (s : State) : StepResult :=
  ⟨instr, s.pc, some s.pc, none, none, none, none, false, none, true⟩

/-- The result-so-far after the fetch of an instruction that executes: "the fields produced so far" (47_host_interface.md
R204). DESIGN CHOICE (log 35): `wbEnable` and `haltedNow` are shown as `false` here and in the results-so-far of decode,
execute and memory, where phase 5 has not yet produced them; R204 does not say what a flag not yet produced shows. -/
def fetchResult (w : Word) (s : State) : StepResult :=
  ⟨some w, s.pc, none, none, none, none, none, false, none, false⟩

/-- The result-so-far after decode. -/
def decodeResult (w : Word) (s : State) : StepResult :=
  let d := decodeFields w
  { fetchResult w s with decoded := some d, control := some (controlOf d).2 }

/-- The result-so-far after execute. -/
def executeResult (w : Word) (s : State) : StepResult :=
  let d := decodeFields w
  { decodeResult w s with execute := some (executePhase d (controlOf d).2 s) }

/-- The result-so-far after memory. -/
def memoryResult (w : Word) (s : State) : StepResult :=
  let d := decodeFields w
  let c := (controlOf d).2
  { executeResult w s with memory := memoryAccess d c (executePhase d c s) s }

/-- The full step result (47_host_interface.md R206). -/
def fullResult (w : Word) (s : State) : StepResult :=
  let d := decodeFields w
  let (cls, c) := controlOf d
  let e := executePhase d c s
  let m := memoryAccess d c e s
  { memoryResult w s with
    pcAfter := some (alignPc (nextPc d c e s))
    wbEnable := writeBackEnable cls d
    writeBack := some ⟨d.rd, writeBackValue c e m⟩ }

/-! ## The step -/

/-- `step() -> StepResult | null` (47_host_interface.md R203), the pseudocode of R95: the result handed to the host,
`none` for `ABSENT`, and the state after. -/
def runStep (s : State) : Option StepResult × State :=
  if s.halted then (none, s)
  else
    match s.fetch with
    | none => (some (haltResult none s), s.halt)
    | some w =>
      if isHaltingWord w then (some (haltResult (some w) s), s.halt)
      else
        let d := decodeFields w
        let (cls, c) := controlOf d
        let e := executePhase d c s
        let m := memoryAccess d c e s
        (some (fullResult w s), writeBackPhase cls d c e m (memoryPhase c e s))

/-- The state the datapath reaches. -/
def datapathStep (s : State) : State := (runStep s).2

/-- What the host is handed. -/
def stepResult (s : State) : Option StepResult := (runStep s).1

/-! ## Phase by phase -/

/-- A phase boundary: the phase that has just ended, what `notify` receives, and the architectural state there
(47_host_interface.md R204, R208). -/
structure Checkpoint where
  phase  : Phase
  result : StepResult
  state  : State
  deriving DecidableEq, Repr

/-- `stepWithPhaseNotifications` (47_host_interface.md R204, R205) as the list of its phase boundaries: none on a halted
core, the fetch alone when it halts (log 23), else all five. -/
def checkpoints (s : State) : List Checkpoint :=
  if s.halted then []
  else
    match s.fetch with
    | none => [⟨.fetch, haltResult none s, s.halt⟩]
    | some w =>
      if isHaltingWord w then [⟨.fetch, haltResult (some w) s, s.halt⟩]
      else
        let d := decodeFields w
        let (cls, c) := controlOf d
        let e := executePhase d c s
        let m := memoryAccess d c e s
        let stored := memoryPhase c e s
        [ ⟨.fetch, fetchResult w s, s⟩, ⟨.decode, decodeResult w s, s⟩, ⟨.execute, executeResult w s, s⟩,
          ⟨.memory, memoryResult w s, stored⟩, ⟨.writeBack, fullResult w s, writeBackPhase cls d c e m stored⟩ ]

/-- The state after a phase-by-phase step that is cancelled once `n` phases have ended: that of the last completed phase
boundary (47_host_interface.md R208; decision D25, log 24). -/
def cancelAfter (n : Nat) (s : State) : State := ((((checkpoints s).take n).getLast?).map Checkpoint.state).getD s

end Sys2Proof.Machine
end

