-- ==== Sys2Proof/Machine/Flags.lean ====
section
/-! DEFINITION. The two combinational flag outputs of the ALU (spec/40_datapath.md R86; decision D16, log 16). They are no
state, no instruction reads them and they are not in the step result. The core has no flags register (10_state.md R24). -/

namespace Sys2Proof.Machine

/-- `alu_carry`: bit 32 of the 33-bit sum for ADD, the carry out of `a + ~b + 1` for SUB, 0 for every other operation
(R86). -/
def aluCarry (op : AluOp) (a b : Word) : Bool :=
  match op with
  | .add => (a.zeroExtend 33 + b.zeroExtend 33).getLsbD 32
  | .sub => (a.zeroExtend 33 + (~~~b).zeroExtend 33 + 1).getLsbD 32
  | .sll | .slt | .sltu | .xor | .srl | .sra | .or | .and | .seq | .beqCmp | .bltCmp | .bltuCmp => false

/-- `alu_overflow`: for ADD, equal signs of the operands and another sign of the result; for SUB, different signs of the
operands and a result whose sign is not `a`'s; 0 for every other operation (R86). -/
def aluOverflow (op : AluOp) (a b : Word) : Bool :=
  match op with
  | .add => a.msb == b.msb && (alu .add a b).msb != a.msb
  | .sub => a.msb != b.msb && (alu .sub a b).msb != a.msb
  | .sll | .slt | .sltu | .xor | .srl | .sra | .or | .and | .seq | .beqCmp | .bltCmp | .bltuCmp => false

end Sys2Proof.Machine
end

