-- ==== Sys2Proof/Machine/Assembler.lean ====
section
/-! DEFINITION. The two-pass assembler (spec/46_assembler.md), a pure function of its text. Texts are lists of characters.
Message wording is not specified by the spec (R179) and not modelled: an error is its kind and the mnemonic, token or label
it names. -/

namespace Sys2Proof.Machine

/-- A source text, a line, a token or a label name. -/
abbrev Text := List Char

/-- The white space that trimming and tokenising know: the ASCII ones (DESIGN CHOICE, log 27). -/
def isSpace (c : Char) : Bool :=
  c == ' ' || c == '\t' || c == '\n' || c == '\r' || c == '\x0b' || c == '\x0c'

/-- A character that separates tokens (R166). -/
def isSeparator (c : Char) : Bool := isSpace c || c == ',' || c == '(' || c == ')'

def isDecimalDigit (c : Char) : Bool := '0' ≤ c && c ≤ '9'

def isHexDigit (c : Char) : Bool := isDecimalDigit c || ('a' ≤ c && c ≤ 'f') || ('A' ≤ c && c ≤ 'F')

/-- The value of a decimal or hexadecimal digit of either case. -/
def digitValue (c : Char) : Nat :=
  if isDecimalDigit c then c.toNat - '0'.toNat
  else if 'a' ≤ c && c ≤ 'f' then c.toNat - 'a'.toNat + 10
  else c.toNat - 'A'.toNat + 10

/-- A numeral in a base, most significant digit first. -/
def numeral (base : Nat) (digits : Text) : Nat := digits.foldl (fun n c => base * n + digitValue c) 0

/-! ## Lines (R161 to R163) -/

/-- The text split at line feeds. -/
def splitLines : Text → List Text
  | [] => [[]]
  | c :: cs =>
    if c = '\n' then [] :: splitLines cs
    else
      match splitLines cs with
      | [] => [[c]]
      | l :: ls => (c :: l) :: ls

/-- A text without its leading and trailing white space. -/
def trim (t : Text) : Text := ((t.dropWhile isSpace).reverse.dropWhile isSpace).reverse

/-- The kinds of line (R161). -/
inductive Line where
  | blank
  | comment
  | label (name : Text)
  | instruction (text : Text)
  deriving DecidableEq, Repr

/-- The kind of a line, by the first test that applies (R161 to R163; decisions D17, D28, log 25). -/
def classify (line : Text) : Line :=
  let t := trim line
  if t.isEmpty then .blank
  else if "#".toList.isPrefixOf t || "//".toList.isPrefixOf t then .comment
  else if t.getLast? = some ':' then .label (trim t.dropLast)
  else .instruction t

def sourceLines (src : Text) : List Line := (splitLines src).map classify

/-! ## Errors and warnings (R178, R179) -/

/-- The assembly errors (R179). A missing operand token is `none` (R167; decision D19, log 26). -/
inductive AsmError where
  | invalidRegister (mnemonic : Text) (token : Option Text)
  | invalidImmediate (mnemonic : Text) (token : Option Text)
  | undefinedLabel (mnemonic : Text) (label : Option Text)
  | unsupportedAddressing (mnemonic : Text)
  | duplicateLabel (label : Text)
  deriving DecidableEq, Repr

/-- The one warning, an unrecognised mnemonic, with the line it names (R178). -/
structure AsmWarning where
  mnemonic : Text
  line : Text
  deriving DecidableEq, Repr

/-- The outcome of an assembly that does not fail: the Words in line order, and the warnings (R160, R181). -/
structure Assembled where
  words : List Word
  warnings : List AsmWarning
  deriving DecidableEq, Repr

/-! ## Pass 1 (R164, R165) -/

/-- Label names and the byte addresses they are bound to. -/
abbrev LabelTable := List (Text × Nat)

/-- Pass 1 from an assembler PC and a table of the labels so far: only instruction lines advance the PC (R164), and a second
definition of a name is an error (R165; decision D20, log 29). -/
def collectLabels : List Line → Nat → LabelTable → Except AsmError LabelTable
  | [], _, table => .ok table
  | .label name :: rest, pc, table =>
    if (table.lookup name).isSome then .error (.duplicateLabel name)
    else collectLabels rest pc (table ++ [(name, pc)])
  | .instruction _ :: rest, pc, table => collectLabels rest (pc + 4) table
  | .blank :: rest, pc, table => collectLabels rest pc table
  | .comment :: rest, pc, table => collectLabels rest pc table

/-! ## Tokens (R166, R168, R170) -/

/-- The tokens of a line, `acc` holding the characters of the token begun, last first: maximal runs of characters that
are no separators (R166). -/
def tokensFrom (acc : Text) : Text → List Text
  | [] => if acc.isEmpty then [] else [acc.reverse]
  | c :: cs =>
    if isSeparator c then (if acc.isEmpty then tokensFrom [] cs else acc.reverse :: tokensFrom [] cs)
    else tokensFrom (c :: acc) cs

def tokens (line : Text) : List Text := tokensFrom [] line

/-- The register-token grammar `x[0-9]|x[12][0-9]|x3[01]`, the whole token (R168). -/
def parseRegister (t : Text) : Option Reg :=
  match t with
  | ['x', d] => if isDecimalDigit d then some (BitVec.ofNat 5 (digitValue d)) else none
  | ['x', d, e] =>
    if isDecimalDigit e && (d == '1' || d == '2' || (d == '3' && (e == '0' || e == '1'))) then
      some (BitVec.ofNat 5 (10 * digitValue d + digitValue e))
    else none
  | _ => none

def isDecimalNumeral (t : Text) : Bool := !t.isEmpty && t.all isDecimalDigit

/-- The immediate grammar `-?\d+` or `0x[0-9a-fA-F]+`, the whole token; any size (R170; decision D29, log 30). -/
def parseImmediate (t : Text) : Option Int :=
  match t with
  | '0' :: 'x' :: digits => if !digits.isEmpty && digits.all isHexDigit then some (numeral 16 digits : Nat) else none
  | '-' :: digits => if isDecimalNumeral digits then some (-(numeral 10 digits : Nat)) else none
  | digits => if isDecimalNumeral digits then some (numeral 10 digits : Nat) else none

/-! ## Handlers (R167, R169, R171 to R177) -/

/-- How a mnemonic is assembled, with its funct7 and funct3. -/
inductive AsmForm where
  | regReg (funct7 funct3 : Nat)
  | regImm (funct3 : Nat)
  | srai
  | lw
  | sw
  | branch (funct3 : Nat)
  | lui
  | jal
  deriving DecidableEq, Repr

/-- R-type mnemonics (R169; funct3 values log 8). -/
def asmRegReg : List (String × AsmForm) :=
  [("add", .regReg 0x00 0b000), ("sub", .regReg 0x20 0b000), ("sll", .regReg 0x00 0b001), ("xor", .regReg 0x00 0b100),
   ("srl", .regReg 0x00 0b101), ("sra", .regReg 0x20 0b101), ("or", .regReg 0x00 0b110), ("and", .regReg 0x00 0b111)]

/-- I-type mnemonics (R171, R172; funct3 values log 8). -/
def asmRegImm : List (String × AsmForm) :=
  [("addi", .regImm 0b000), ("slli", .regImm 0b001), ("slti", .regImm 0b010), ("xori", .regImm 0b100),
   ("srli", .regImm 0b101), ("srai", .srai), ("ori", .regImm 0b110), ("andi", .regImm 0b111)]

/-- Branch mnemonics (R175; funct3 values log 8). -/
def asmBranch : List (String × AsmForm) :=
  [("beq", .branch 0b000), ("bne", .branch 0b001), ("blt", .branch 0b100), ("bge", .branch 0b101),
   ("bltu", .branch 0b110), ("bgeu", .branch 0b111)]

/-- The other mnemonics (R173, R174, R176, R177). -/
def asmOther : List (String × AsmForm) := [("lw", .lw), ("sw", .sw), ("lui", .lui), ("jal", .jal)]

/-- The 26 mnemonics of the assembler. -/
def asmForms : List (String × AsmForm) := asmRegReg ++ asmRegImm ++ asmOther ++ asmBranch

/-- The mnemonic table as tokens. -/
def asmTable : List (Text × AsmForm) := asmForms.map fun row => (row.1.toList, row.2)

/-- A token in a register position (R168). -/
def needRegister (mnemonic : Text) (token : Option Text) : Except AsmError Reg :=
  match token.bind parseRegister with
  | some r => .ok r
  | none => .error (.invalidRegister mnemonic token)

/-- A token in an immediate position (R170). -/
def needImmediate (mnemonic : Text) (token : Option Text) : Except AsmError Int :=
  match token.bind parseImmediate with
  | some v => .ok v
  | none => .error (.invalidImmediate mnemonic token)

/-- A token in a label position, looked up as a label only (R175). -/
def needLabel (labels : LabelTable) (mnemonic : Text) (token : Option Text) : Except AsmError Nat :=
  match token.bind fun name => labels.lookup name with
  | some address => .ok address
  | none => .error (.undefinedLabel mnemonic token)

/-- The word of an instruction line whose mnemonic is known. Operands are checked left to right and the first failure is
the error (R167); tokens past the last operand are ignored (R188; decision D19, log 26). -/
def assembleForm (labels : LabelTable) (pc : Nat) (m : Text) (ops : List Text) : AsmForm → Except AsmError Word
  | .regReg funct7 funct3 => do
    let rd ← needRegister m ops[0]?
    let rs1 ← needRegister m ops[1]?
    let rs2 ← needRegister m ops[2]?
    return encodeR funct7 rs2.toNat rs1.toNat funct3 rd.toNat 0x33
  | .regImm funct3 => do
    let rd ← needRegister m ops[0]?
    let rs1 ← needRegister m ops[1]?
    let imm ← needImmediate m ops[2]?
    return encodeI imm rs1.toNat funct3 rd.toNat 0x13
  | .srai => do
    -- R172: the value masked to 12 bits, with bit 10 set; the mask is not 5 bits wide (decision D21, log 30)
    let rd ← needRegister m ops[0]?
    let rs1 ← needRegister m ops[1]?
    let imm ← needImmediate m ops[2]?
    return encodeI (BitVec.ofInt 12 imm ||| 0x400#12).toNat rs1.toNat 0b101 rd.toNat 0x13
  | .lw => do
    -- R173: fewer than three operand tokens is "unsupported addressing syntax" (decision D24, log 26)
    if ops.length < 3 then throw (.unsupportedAddressing m)
    let rd ← needRegister m ops[0]?
    let imm ← needImmediate m ops[1]?
    let rs1 ← needRegister m ops[2]?
    return encodeI imm rs1.toNat 0b010 rd.toNat 0x03
  | .sw => do
    if ops.length < 3 then throw (.unsupportedAddressing m)
    let rs2 ← needRegister m ops[0]?
    let imm ← needImmediate m ops[1]?
    let rs1 ← needRegister m ops[2]?
    return encodeS imm rs2.toNat rs1.toNat 0b010 0x23
  | .branch funct3 => do
    let rs1 ← needRegister m ops[0]?
    let rs2 ← needRegister m ops[1]?
    let address ← needLabel labels m ops[2]?
    return encodeB ((address : Int) - pc) rs2.toNat rs1.toNat funct3 0x63
  | .lui => do
    let rd ← needRegister m ops[0]?
    let imm ← needImmediate m ops[1]?
    return encodeU imm rd.toNat 0x37
  | .jal => do
    let rd ← needRegister m ops[0]?
    let address ← needLabel labels m ops[1]?
    return encodeJ ((address : Int) - pc) rd.toNat 0x6F

/-- An instruction line's word; none for an unknown mnemonic (R178). Mnemonics are matched exactly, in lower case (R166). A
line of separators only has no mnemonic and counts as an unknown one (DESIGN CHOICE, log 28). -/
def assembleTokens (labels : LabelTable) (pc : Nat) (toks : List Text) : Except AsmError (Option Word) :=
  match toks with
  | [] => .ok none
  | m :: ops =>
    match asmTable.lookup m with
    | none => .ok none
    | some form => (assembleForm labels pc m ops form).map some

/-! ## Pass 2 and the whole (R160, R166, R178, R180, R181) -/

/-- Pass 2 from an assembler PC: every instruction line advances the PC by 4, whatever becomes of it; the first error
aborts. -/
def encodeLines (labels : LabelTable) : List Line → Nat → Except AsmError Assembled
  | [], _ => .ok ⟨[], []⟩
  | .instruction line :: rest, pc =>
    match assembleTokens labels pc (tokens line) with
    | .error e => .error e
    | .ok word =>
      match encodeLines labels rest (pc + 4) with
      | .error e => .error e
      | .ok out =>
        match word with
        | some w => .ok ⟨w :: out.words, out.warnings⟩
        | none => .ok ⟨out.words, ⟨(tokens line).headD [], line⟩ :: out.warnings⟩
  | .label _ :: rest, pc => encodeLines labels rest pc
  | .blank :: rest, pc => encodeLines labels rest pc
  | .comment :: rest, pc => encodeLines labels rest pc

/-- `assemble(sourceText) -> sequence of Word` (R160): pass 1 over all lines, then pass 2, so that duplicate labels are
reported before any error of pass 2 (R180). -/
def assemble (src : Text) : Except AsmError Assembled :=
  match collectLabels (sourceLines src) 0 [] with
  | .error e => .error e
  | .ok labels => encodeLines labels (sourceLines src) 0

end Sys2Proof.Machine
end

