-- ==== Sys2Proof/Machine/Operator.lean ====
section
/-! DEFINITION. What the host may do to the core between steps (spec/47_host_interface.md R200, R209 to R212;
spec/10_state.md R28). Each operation is atomic and none happens inside a step (log 22). -/

namespace Sys2Proof.Machine

/-- Program load of a list of Words (R200, R202): instruction memory is cleared, the first 256 Words are placed from
cell 0, then the core is reset. -/
def State.loadWords (s : State) (p : List Word) : State :=
  { s with imem := Vector.ofFn fun k => p.getD k.toNat 0 }.resetCore

/-- `reg_edit(i, v)` (R210): a value wider than 32 bits is reduced to its low 32 bits; an edit of register 0 changes
nothing. -/
def State.regEdit (s : State) (i : Reg) (v : Nat) : State := s.writeReg i (BitVec.ofNat 32 v)

/-- `dmem_edit(k, v)` (R211; decision D23, log 32). -/
def State.dmemEdit (s : State) (k : DataCell) (v : Word) : State := s.setCell k v

/-- Everything that can change the core: its own step, and the host's operations (10_state.md R28). -/
inductive Event where
  | step
  | reset
  | load (p : List Word)
  | regEdit (i : Reg) (v : Nat)
  | dmemEdit (k : DataCell) (v : Word)
  deriving DecidableEq, Repr

/-- The state a step leaves; `step` always answers a next state, and a stop would leave the state as it was. -/
def State.stepped (s : State) : State :=
  match step s with
  | .next t => t
  | .fault _ | .refused _ => s

/-- What an event does. -/
def Event.apply : Event → State → State
  | .step, s => s.stepped
  | .reset, s => s.resetCore
  | .load p, s => s.loadWords p
  | .regEdit i v, s => s.regEdit i v
  | .dmemEdit k v, s => s.dmemEdit k v

/-- What a sequence of events does, first to last. -/
def runEvents : List Event → State → State
  | [], s => s
  | e :: es, s => runEvents es (e.apply s)

end Sys2Proof.Machine
end

