-- ==== Sys2Proof/Machine/Loader.lean ====
section
/-! DEFINITION. Program load from text (spec/47_host_interface.md R200 to R202; decision D22, log 31): raw hex or assembler
source, told apart by the first non-empty line. -/

namespace Sys2Proof.Machine

/-- Why a load fails (R202). -/
inductive LoadError where
  /-- A non-empty line of a hex text that is not one to eight hex digits (R202). DESIGN CHOICE (log 36): the error names the
  first such line in text order, trimmed. -/
  | badHexLine (line : Text)
  | assembly (error : AsmError)
  deriving DecidableEq, Repr

/-- The pure hex-digit pattern: one to eight hex digits and nothing else (R201). -/
def isHexLine (line : Text) : Bool := 1 ≤ line.length && line.length ≤ 8 && line.all isHexDigit

/-- The Word of a hex line, most significant digit first (R201). -/
def hexWord (line : Text) : Word := BitVec.ofNat 32 (numeral 16 line)

/-- The trimmed lines of a text that are not empty. -/
def contentLines (src : Text) : List Text := ((splitLines src).map trim).filter fun l => !l.isEmpty

/-- The Words of a hex text, one a line (R201); a line that does not match fails the load (R202). DESIGN
CHOICE (log 36): the first such line, trimmed, is the one the error names; R202 says only that the load fails with an
error. -/
def hexProgram : List Text → Except LoadError (List Word)
  | [] => .ok []
  | line :: rest =>
    if isHexLine line then
      match hexProgram rest with
      | .error e => .error e
      | .ok ws => .ok (hexWord line :: ws)
    else .error (.badHexLine line)

/-- The first non-empty line decides: pure hex digits, hex; anything else, or no such line, assembler source (R201). -/
def isHexText (src : Text) : Bool :=
  match contentLines src with
  | [] => false
  | line :: _ => isHexLine line

/-- The program a text stands for, with the assembler's warnings (R200 to R202). -/
def parseProgram (src : Text) : Except LoadError Assembled :=
  if isHexText src then
    match hexProgram (contentLines src) with
    | .error e => .error e
    | .ok ws => .ok ⟨ws, []⟩
  else
    match assemble src with
    | .error e => .error (.assembly e)
    | .ok out => .ok out

/-- Program load of a text: what the host is told, and the core afterwards. The text is converted before the core is
touched, so a failed load changes nothing (R202). -/
def State.loadText (s : State) (src : Text) : Except LoadError Assembled × State :=
  match parseProgram src with
  | .error e => (.error e, s)
  | .ok out => (.ok out, s.loadWords out.words)

/-! ## Words as hex text ("writing results hex-encoded", R201) -/

/-- A hexadecimal digit, lower case. -/
def hexDigit (d : BitVec 4) : Char := "0123456789abcdef".toList.getD d.toNat '0'

/-- The eight digits of a Word, most significant first. -/
def hexOfWord (w : Word) : Text := [28, 24, 20, 16, 12, 8, 4, 0].map fun bit => hexDigit (w.extractLsb' bit 4)

/-- The hex text of a program, one Word a line. -/
def hexText : List Word → Text
  | [] => []
  | w :: ws => hexOfWord w ++ '\n' :: hexText ws

end Sys2Proof.Machine
end

