-- ==== Sys2Proof/Safety.lean ====
section
/-! DEFINITION. What a legal state and a safe run are: the invariants of spec/10_state.md R27 that are about stored
state, the states the core and its host can reach, the absence of any stop (spec/40_datapath.md R100), and the shapes an
instruction's effect has, frame included, in which the statements are written. Numbers stand where the rules give
numbers, so that a shape does not repeat a definition of the machine. -/

namespace Sys2Proof.Machine

/-- The stored cell of register 0 holds 0 and the pc is a multiple of 4 (10_state.md R27 (a), (b)). R27 (c) is the type
`AluOp`. -/
abbrev State.Inv (s : State) : Prop := s.regs[0] = 0 ∧ s.pc.extractLsb' 0 2 = 0

/-- A state some sequence of steps and host operations leads to from power-on. -/
def Reachable (s : State) : Prop := ∃ es : List Event, runEvents es State.reset = s

/-- The core goes on: the step answers a next state (R100). -/
def SafeStep (s : State) : Prop := ∃ t, step s = .next t

/-! ## Shapes of an effect -/

/-- `t` has the halted flag and every byte of both memories of `s`. -/
abbrev State.SameHaltedAndMemories (s t : State) : Prop :=
  t.halted = s.halted ∧ (∀ a, t.dataByte a = s.dataByte a) ∧ (∀ a, t.instrByte a = s.instrByte a)

/-- `t`'s pc is four past `s`'s, modulo 2^32, its low two bits forced to 0 (10_state.md R14 to R16; log 5). -/
abbrev State.NextInOrder (s t : State) : Prop := t.pc.toNat = (s.pc.toNat + 4) % 2 ^ 32 / 4 * 4

/-- The outcome is a next state in which register `rd` holds a value that meets `result` (register 0 is not written), the
pc is the next in order, the cycle counter has counted one, and everything else is as it was. -/
def WritesRegister (s : State) (rd : Reg) (result : Word → Prop) (r : Result) : Prop :=
  ∃ v t, result v ∧ r = .next t ∧ (∀ q, t.x q = if q = rd ∧ rd ≠ 0 then v else s.x q) ∧
    s.NextInOrder t ∧ t.cycle = s.cycle + 1 ∧ s.SameHaltedAndMemories t

/-- The outcome is a next state in which the pc is the next in order, the cycle counter has counted one, and everything
else is as it was. -/
def OnlyAdvances (s : State) (r : Result) : Prop :=
  ∃ t, r = .next t ∧ (∀ q, t.x q = s.x q) ∧ s.NextInOrder t ∧ t.cycle = s.cycle + 1 ∧ s.SameHaltedAndMemories t

/-- The outcome is a next state in which the pc is the branch's own address plus the signed offset, modulo 2^32 and with its
low two bits 0, if the branch is taken, and the next in order if not; the cycle counter has counted one and everything
else is as it was (44_branch.md template, R141). -/
def Branches (s : State) (offset : BitVec 13) (taken : Prop) (r : Result) : Prop :=
  ∃ t, r = .next t ∧ (taken → (t.pc.toNat : Int) = (s.pc.toNat + offset.toInt) % 2 ^ 32 / 4 * 4) ∧
    (¬ taken → s.NextInOrder t) ∧ (∀ q, t.x q = s.x q) ∧ t.cycle = s.cycle + 1 ∧ s.SameHaltedAndMemories t

/-- The next step of `s` executes a store to data cell `k`. -/
def State.StoresTo (s : State) (k : DataCell) : Prop :=
  s.halted = false ∧
    ∃ w, s.fetch = some w ∧ opcodeOf w = 0x23 ∧ dataCell (s.x (rs1Of w) + sext12 (immSOf w)) = k

/-! ## Operands of an instruction line (46_assembler.md R167 to R177) -/

/-- What the syntax of a mnemonic asks for in an operand position. -/
inductive OperandKind where
  | register
  | immediate
  | label
  deriving DecidableEq, Repr

/-- The operand positions of a handler's syntax, left to right (R169, R171 to R177). -/
def AsmForm.operandKinds : AsmForm → List OperandKind
  | .regReg _ _ => [.register, .register, .register]
  | .regImm _ | .srai => [.register, .register, .immediate]
  | .lw | .sw => [.register, .immediate, .register]
  | .branch _ => [.register, .register, .label]
  | .lui => [.register, .immediate]
  | .jal => [.register, .label]

/-- The token meets the position's grammar, or is a label of the table (R168, R170, R175); a missing one does not (R167). -/
def OperandKind.accepts (labels : LabelTable) (kind : OperandKind) (token : Option Text) : Bool :=
  match kind, token with
  | _, none => false
  | .register, some t => (parseRegister t).isSome
  | .immediate, some t => (parseImmediate t).isSome
  | .label, some t => (labels.lookup t).isSome

/-- The error a token that is not accepted is reported as (R168, R170, R175, R179). -/
def OperandKind.error (kind : OperandKind) (m : Text) (token : Option Text) : AsmError :=
  match kind with
  | .register => .invalidRegister m token
  | .immediate => .invalidImmediate m token
  | .label => .undefinedLabel m token

/-! ## Counting lines of a source text (46_assembler.md R164) -/

/-- The line is an instruction line. -/
def Line.isInstruction : Line → Bool
  | .instruction _ => true
  | .blank | .comment | .label _ => false

/-- The label names of a text's lines, in order. -/
def labelNames : List Line → List Text
  | [] => []
  | .label name :: rest => name :: labelNames rest
  | .blank :: rest => labelNames rest
  | .comment :: rest => labelNames rest
  | .instruction _ :: rest => labelNames rest

end Sys2Proof.Machine
end

