-- ==== Sys2Proof/WellFormed.lean ====
section
/-! DEFINITION. Which instruction terms have an encoding: a term is well formed when the bits its row of
spec/opcode_table.json fixes have their fixed values, branch and jump offsets are even (30_encoding.md R55, R57) and an
`unrecognised` term is a word that no earlier row takes. -/

namespace Sys2Proof

/-- The opcodes that have rows of their own, so that `unrecognised` does not take them (30_encoding.md R69; the table's
rows lui and jal). -/
def Instr.ownOpcodes : List (BitVec 7) := [0x33, 0x13, 0x03, 0x23, 0x63, 0x37, 0x6F]

/-- The fields of one of the three halting words, compared whole (30_encoding.md R71). -/
def Instr.haltingFields (funct7 : BitVec 7) (rs2 rs1 : Reg) (funct3 : BitVec 3) (rd : Reg) (opcode : BitVec 7) : Bool :=
  funct7 == 0 && rs1 == 0 && funct3 == 0 && rd == 0 &&
    ((opcode == 0 && rs2 == 0) || (opcode == 0x73 && (rs2 == 0 || rs2 == 1)))

/-- The well-formedness check of an instruction term. -/
def Instr.wellFormed : Instr → Bool
  | .haltZero | .haltEcall | .haltEbreak => true
  -- word bit 30 is bit 5 of funct7: 0 for add and srl, 1 for sub and sra (30_encoding.md R70)
  | .add _ _ _ funct7 | .srl _ _ _ funct7 => !funct7.getLsbD 5
  | .sub _ _ _ funct7 | .sra _ _ _ funct7 => funct7.getLsbD 5
  | .sll _ _ _ _ | .slt _ _ _ _ | .sltu _ _ _ _ | .xor _ _ _ _ | .or _ _ _ _ | .and _ _ _ _ => true
  | .addi _ _ _ | .slli _ _ _ | .slti _ _ _ | .sltiu _ _ _ | .xori _ _ _ | .ori _ _ _ | .andi _ _ _ => true
  -- word bit 30 is bit 10 of the immediate: 0 for srli, 1 for srai
  | .srli _ _ imm => !imm.getLsbD 10
  | .srai _ _ imm => imm.getLsbD 10
  | .lw _ _ _ _ | .sw _ _ _ _ => true
  | .beq _ _ offset | .bne _ _ offset | .blt _ _ offset | .bge _ _ offset | .bltu _ _ offset | .bgeu _ _ offset
  | .branchFunct3_010 _ _ offset | .branchFunct3_011 _ _ offset => !offset.getLsbD 0
  | .lui _ _ => true
  | .jal _ offset => !offset.getLsbD 0
  | .unrecognised funct7 rs2 rs1 funct3 rd opcode =>
    !Instr.ownOpcodes.contains opcode && !Instr.haltingFields funct7 rs2 rs1 funct3 rd opcode

/-- The instruction term has an encoding. -/
abbrev Instr.WellFormed (i : Instr) : Prop := i.wellFormed = true

end Sys2Proof
end

