-- ==== Sys2Proof/Certificates/Slice0/Obligations.lean ====
section
/-! DEFINITION. The statements for the provers. Where a clause rests on a choice that the spec marks as its own (a
decision D<n>, general knowledge) the docstring names it with its row of the assumption log. -/

open Sys2Proof Sys2Proof.Machine

/-! ## Encoding and decoding -/

/-- Decoding the word of a well-formed instruction gives the instruction back, every operand at every value (the bit
positions and funct3 values the spec takes from general knowledge are logs 8 to 13 and 17; log 18). -/
def Obligations.DecodeRecoversEncodedInstruction : Prop :=
  ∀ i : Instr, i.WellFormed → decode (encode i) = i

/-- Every word decodes to a well-formed instruction whose encoding is that word: no bit is dropped (log 18). -/
def Obligations.EveryWordIsOneWellFormedInstruction : Prop :=
  ∀ w : Word, (decode w).WellFormed ∧ encode (decode w) = w

/-- R68: the field decoder recovers what the R, I, S and B encoders were given, sign included; the encoders recover a word
from its fields; an immediate out of range comes back reduced to its width, bit 0 cleared for B. -/
def Obligations.FieldDecoderInvertsEncoders : Prop :=
  (∀ f7 rs2 rs1 f3 rd : Int, 0 ≤ f7 ∧ f7 < 128 → 0 ≤ rs2 ∧ rs2 < 32 → 0 ≤ rs1 ∧ rs1 < 32 → 0 ≤ f3 ∧ f3 < 8 →
    0 ≤ rd ∧ rd < 32 →
    let d := decodeFields (encodeR f7 rs2 rs1 f3 rd 0x33)
    d.funct7.toNat = f7 ∧ d.rs2.toNat = rs2 ∧ d.rs1.toNat = rs1 ∧ d.funct3.toNat = f3 ∧ d.rd.toNat = rd ∧
      d.opcode = 0x33 ∧ d.imm = 0) ∧
  (∀ i rs1 f3 rd op : Int, 0 ≤ rs1 ∧ rs1 < 32 → 0 ≤ f3 ∧ f3 < 8 → 0 ≤ rd ∧ rd < 32 → op = 0x13 ∨ op = 0x03 →
    let d := decodeFields (encodeI i rs1 f3 rd op)
    d.rs1.toNat = rs1 ∧ d.funct3.toNat = f3 ∧ d.rd.toNat = rd ∧ d.opcode.toNat = op ∧
      d.imm = sext12 (BitVec.ofInt 12 i) ∧ (-2048 ≤ i ∧ i ≤ 2047 → d.imm.toInt = i)) ∧
  (∀ i rs2 rs1 f3 : Int, 0 ≤ rs2 ∧ rs2 < 32 → 0 ≤ rs1 ∧ rs1 < 32 → 0 ≤ f3 ∧ f3 < 8 →
    let d := decodeFields (encodeS i rs2 rs1 f3 0x23)
    d.rs2.toNat = rs2 ∧ d.rs1.toNat = rs1 ∧ d.funct3.toNat = f3 ∧ d.opcode = 0x23 ∧
      d.imm = sext12 (BitVec.ofInt 12 i) ∧ (-2048 ≤ i ∧ i ≤ 2047 → d.imm.toInt = i)) ∧
  (∀ i rs2 rs1 f3 : Int, 0 ≤ rs2 ∧ rs2 < 32 → 0 ≤ rs1 ∧ rs1 < 32 → 0 ≤ f3 ∧ f3 < 8 →
    let d := decodeFields (encodeB i rs2 rs1 f3 0x63)
    d.rs2.toNat = rs2 ∧ d.rs1.toNat = rs1 ∧ d.funct3.toNat = f3 ∧ d.opcode = 0x63 ∧
      d.imm = sext13 (BitVec.ofInt 13 (i - i % 2)) ∧ (i % 2 = 0 ∧ -4096 ≤ i ∧ i ≤ 4094 → d.imm.toInt = i)) ∧
  (∀ w : Word,
    let d := decodeFields w
    encodeR d.funct7.toNat d.rs2.toNat d.rs1.toNat d.funct3.toNat d.rd.toNat d.opcode.toNat = w ∧
    (d.tag = .I → encodeI d.imm.toInt d.rs1.toNat d.funct3.toNat d.rd.toNat d.opcode.toNat = w) ∧
    (d.tag = .S → encodeS d.imm.toInt d.rs2.toNat d.rs1.toNat d.funct3.toNat d.opcode.toNat = w) ∧
    (d.tag = .B → encodeB d.imm.toInt d.rs2.toNat d.rs1.toNat d.funct3.toNat d.opcode.toNat = w))

/-- R61 to R63: the R, I and S encoders are the rules' expressions of masks, shifts and ors, for all integers. -/
def Obligations.EncodersOfPrintedFormatsMaskAndShift : Prop :=
  ∀ f7 rs2 rs1 f3 rd op imm : Int,
    let m (n : Nat) (v : Int) : Word := BitVec.ofInt 32 v &&& BitVec.ofNat 32 n
    encodeR f7 rs2 rs1 f3 rd op =
      (m 0x7F f7 <<< 25 ||| m 0x1F rs2 <<< 20 ||| m 0x1F rs1 <<< 15 ||| m 7 f3 <<< 12 ||| m 0x1F rd <<< 7 ||| m 0x7F op) ∧
    encodeI imm rs1 f3 rd op =
      (m 0xFFF imm <<< 20 ||| m 0x1F rs1 <<< 15 ||| m 7 f3 <<< 12 ||| m 0x1F rd <<< 7 ||| m 0x7F op) ∧
    encodeS imm rs2 rs1 f3 op =
      ((m 0xFFF imm >>> 5) <<< 25 ||| m 0x1F rs2 <<< 20 ||| m 0x1F rs1 <<< 15 ||| m 7 f3 <<< 12 |||
        (m 0xFFF imm &&& 0x1F) <<< 7 ||| m 0x7F op)

/-- R64 to R66: the B, U and J encoders place the pieces of the immediate as the rules write them, for all integers (the
positions are general knowledge, log 8). -/
def Obligations.EncodersOfSplitFormatsPlacePieces : Prop :=
  ∀ rs2 rs1 f3 rd op imm : Int,
    let m (n : Nat) (v : Int) : Word := BitVec.ofInt 32 v &&& BitVec.ofNat 32 n
    -- bits [lo + width - 1 : lo] of the immediate
    let piece (lo width : Nat) : Word := (BitVec.ofInt 32 imm >>> lo) &&& BitVec.ofNat 32 (2 ^ width - 1)
    encodeB imm rs2 rs1 f3 op =
      (piece 12 1 <<< 31 ||| piece 5 6 <<< 25 ||| m 0x1F rs2 <<< 20 ||| m 0x1F rs1 <<< 15 ||| m 7 f3 <<< 12 |||
        piece 1 4 <<< 8 ||| piece 11 1 <<< 7 ||| m 0x7F op) ∧
    encodeU imm rd op = (m 0xFFFFF imm <<< 12 ||| m 0x1F rd <<< 7 ||| m 0x7F op) ∧
    encodeJ imm rd op =
      (piece 20 1 <<< 31 ||| piece 1 10 <<< 21 ||| piece 11 1 <<< 20 ||| piece 12 8 <<< 12 ||| m 0x1F rd <<< 7 |||
        m 0x7F op)

/-- R51: the six fields stand at the same bits of every word, whatever its opcode. -/
def Obligations.FieldsStandAtFixedPositions : Prop :=
  ∀ w : Word,
    let d := decodeFields w
    d.opcode.toNat = w.toNat % 2 ^ 7 ∧ d.rd.toNat = w.toNat / 2 ^ 7 % 2 ^ 5 ∧ d.funct3.toNat = w.toNat / 2 ^ 12 % 2 ^ 3 ∧
      d.rs1.toNat = w.toNat / 2 ^ 15 % 2 ^ 5 ∧ d.rs2.toNat = w.toNat / 2 ^ 20 % 2 ^ 5 ∧ d.funct7.toNat = w.toNat / 2 ^ 25

/-- The decoder answers the instruction whose mnemonic is that of the first row of the opcode table that takes the word
(the table's funct3 values, masks and rows follow the spec's decisions: logs 8 to 12 and 17). -/
def Obligations.DecoderFollowsFirstMatchingTableRow : Prop :=
  ∀ w : Word, ∃ r : TableRow, firstTableRow w = some r ∧ r.mnemonic = (decode w).mnemonic

/-- Words of the spec's test vectors and examples, one for each family, decode to the instructions they stand for (a
sanity statement; the encodings rest on log 8). -/
def Obligations.ExampleWordsDecode : Prop :=
  decode 0x00000000 = .haltZero ∧ decode 0x00000073 = .haltEcall ∧ decode 0x00100073 = .haltEbreak ∧
  decode 0x002081B3 = .add 3 1 2 0 ∧ decode 0x4020D1B3 = .sra 3 1 2 0x20 ∧ decode 0xFFF08193 = .addi 3 1 0xFFF ∧
  decode 0x4040D193 = .srai 3 1 0x404 ∧ decode 0x0080A103 = .lw 2 1 8 2 ∧ decode 0xFE20AE23 = .sw 2 1 0xFFC 2 ∧
  decode 0xFE209CE3 = .bne 1 2 0x1FF8 ∧ decode 0x0020A463 = .branchFunct3_010 1 2 8 ∧
  decode 0x123452B7 = .lui 5 0x12345 ∧ decode 0x008000EF = .jal 1 8 ∧
  decode 0x0000000F = .unrecognised 0 0 0 0 0 0x0F

/-! ## The ALU and the control table -/

/-- R80: the result of each of the 14 operations for every pair of Words, in numbers. -/
def Obligations.AluComputesOperationTable : Prop :=
  ∀ a b : Word,
    let sh := b.toNat % 32
    (alu .add a b).toNat = (a.toNat + b.toNat) % 2 ^ 32 ∧
    ((alu .sub a b).toNat : Int) = ((a.toNat : Int) - b.toNat) % 2 ^ 32 ∧
    (alu .sll a b).toNat = a.toNat * 2 ^ sh % 2 ^ 32 ∧
    (alu .slt a b).toNat = (if a.toInt < b.toInt then 1 else 0) ∧
    (alu .sltu a b).toNat = (if a.toNat < b.toNat then 1 else 0) ∧
    (∀ i, i < 32 → (alu .xor a b).getLsbD i = (a.getLsbD i != b.getLsbD i)) ∧
    (alu .srl a b).toNat = a.toNat / 2 ^ sh ∧
    (alu .sra a b).toInt = a.toInt / 2 ^ sh ∧
    (∀ i, i < 32 → (alu .or a b).getLsbD i = (a.getLsbD i || b.getLsbD i)) ∧
    (∀ i, i < 32 → (alu .and a b).getLsbD i = (a.getLsbD i && b.getLsbD i)) ∧
    (alu .seq a b).toNat = (if a = b then 1 else 0) ∧
    (alu .beqCmp a b).toNat = (if a = b then 1 else 0) ∧
    (alu .bltCmp a b).toNat = (if a.toInt < b.toInt then 1 else 0) ∧
    (alu .bltuCmp a b).toNat = (if a.toNat < b.toNat then 1 else 0)

/-- R82: the three shifts use the low 5 bits of operand B only; the largest shift is 31; the immediate of SRAI, 0x400 with
the amount in its low 5 bits, shifts by that amount. -/
def Obligations.ShiftsUseLowFiveBits : Prop :=
  ∀ op ∈ [AluOp.sll, .srl, .sra], ∀ a b : Word,
    alu op a b = alu op a (b &&& 0x1F) ∧ shiftAmount b ≤ 31 ∧ alu op a 32 = a ∧ alu op a 33 = alu op a 1 ∧
    alu op a (-1) = alu op a 31 ∧
    (∀ shamt : BitVec 12, shamt.toNat < 32 → alu op a (sext12 (0x400 ||| shamt)) = alu op a (BitVec.ofNat 32 shamt.toNat))

/-- R84: the comparisons return the Word 0 or the Word 1, never another value. -/
def Obligations.ComparisonsReturnZeroOrOne : Prop :=
  ∀ op ∈ [AluOp.slt, .sltu, .seq, .beqCmp, .bltCmp, .bltuCmp], ∀ a b : Word, alu op a b = 0 ∨ alu op a b = 1

/-- R86 (decision D16, log 16): the carry output is the unsigned carry of ADD and the absence of a borrow of SUB; the
overflow output says that the signed sum or difference is out of range; both are 0 for every other operation. -/
def Obligations.FlagOutputsReportCarryAndOverflow : Prop :=
  ∀ a b : Word,
    (aluCarry .add a b = true ↔ 2 ^ 32 ≤ a.toNat + b.toNat) ∧
    (aluCarry .sub a b = true ↔ b.toNat ≤ a.toNat) ∧
    (aluOverflow .add a b = true ↔ a.toInt + b.toInt < -2 ^ 31 ∨ 2 ^ 31 ≤ a.toInt + b.toInt) ∧
    (aluOverflow .sub a b = true ↔ a.toInt - b.toInt < -2 ^ 31 ∨ 2 ^ 31 ≤ a.toInt - b.toInt) ∧
    (∀ op, op ≠ .add → op ≠ .sub → aluCarry op a b = false ∧ aluOverflow op a b = false)

/-- R81 and R85 (decision D6, log 7): the 14 operations have 14 codes, each naming its operation, and the two codes left
make the ALU return 0. -/
def Obligations.OperationCodesAreDistinctAndUnknownReturnZero : Prop :=
  (∀ op, aluOpOfCode op.code = some op) ∧
    ∀ c a b, (∀ op : AluOp, op.code ≠ c) → aluByCode c a b = 0 ∧ 14 ≤ c.toNat

/-- R87 to R91 (funct3 values log 8; decisions D8 to D10, logs 9 to 11): the control table examines one funct7 bit, the class
says which signals are set, an unrecognised instruction has the all-zero signals, and SEQ is never selected. -/
def Obligations.ControlSignalsFollowClass : Prop :=
  ∀ (opcode : BitVec 7) (funct3 : BitVec 3) (funct7 : BitVec 7),
    let (cls, c) := Machine.control opcode funct3 funct7
    (∀ funct7' : BitVec 7, funct7'.getLsbD 5 = funct7.getLsbD 5 → Machine.control opcode funct3 funct7' = (cls, c)) ∧
    c.operandBIsImmediate = (cls == .IAlu || cls == .Load || cls == .Store) ∧
    c.writeBackUsesMemory = (cls == .Load) ∧
    c.dataMemoryWriteEnable = (cls == .Store) ∧
    c.branchEnable = (cls == .Branch) ∧
    (c.branchInvert = true → cls = .Branch) ∧
    (cls = .Branch ↔ opcode = 0x63 ∧ c.aluOperation ∈ [AluOp.beqCmp, .bltCmp, .bltuCmp]) ∧
    (cls = .Load ∨ cls = .Store → c.aluOperation = .add) ∧
    (cls = .Unrecognised → c = ControlSignals.none) ∧
    c.aluOperation ≠ .seq ∧
    (cls = .R ↔ opcode = 0x33) ∧ (cls = .IAlu ↔ opcode = 0x13) ∧ (cls = .Load ↔ opcode = 0x03) ∧
    (cls = .Store ↔ opcode = 0x23)

/-! ## What each instruction does -/

/-- R110 to R119: every register-register instruction completes, for all operands and whatever its funct7 holds (log 9),
with the rule's result in `rd` (register 0 discards it), the pc four further (log 5), one more in the cycle counter
(log 6), and every other register, the halted flag and every byte of both memories as they were. -/
def Obligations.RegisterRegisterInstructionsComplete : Prop :=
  ∀ (s : State) (rd rs1 rs2 : Reg) (f7 : BitVec 7),
    let a := s.x rs1
    let b := s.x rs2
    let sh := b.toNat % 32
    WritesRegister s rd (fun v => v.toNat = (a.toNat + b.toNat) % 2 ^ 32) (exec (.add rd rs1 rs2 f7) s) ∧
    WritesRegister s rd (fun v => (v.toNat : Int) = ((a.toNat : Int) - b.toNat) % 2 ^ 32) (exec (.sub rd rs1 rs2 f7) s) ∧
    WritesRegister s rd (fun v => v.toNat = a.toNat * 2 ^ sh % 2 ^ 32) (exec (.sll rd rs1 rs2 f7) s) ∧
    WritesRegister s rd (fun v => v = if a.toInt < b.toInt then 1 else 0) (exec (.slt rd rs1 rs2 f7) s) ∧
    WritesRegister s rd (fun v => v = if a.toNat < b.toNat then 1 else 0) (exec (.sltu rd rs1 rs2 f7) s) ∧
    WritesRegister s rd (fun v => ∀ i, i < 32 → v.getLsbD i = (a.getLsbD i != b.getLsbD i))
      (exec (.xor rd rs1 rs2 f7) s) ∧
    WritesRegister s rd (fun v => v.toNat = a.toNat / 2 ^ sh) (exec (.srl rd rs1 rs2 f7) s) ∧
    WritesRegister s rd (fun v => v.toInt = a.toInt / 2 ^ sh) (exec (.sra rd rs1 rs2 f7) s) ∧
    WritesRegister s rd (fun v => ∀ i, i < 32 → v.getLsbD i = (a.getLsbD i || b.getLsbD i))
      (exec (.or rd rs1 rs2 f7) s) ∧
    WritesRegister s rd (fun v => ∀ i, i < 32 → v.getLsbD i = (a.getLsbD i && b.getLsbD i))
      (exec (.and rd rs1 rs2 f7) s)

/-- R120 to R128: every register-immediate instruction completes, for all operands, with the rule's result, the immediate
sign-extended also where it is compared unsigned or used bit by bit, the shift amount its low 5 bits, and the frame of
the register-register instructions (logs 5, 6). -/
def Obligations.RegisterImmediateInstructionsComplete : Prop :=
  ∀ (s : State) (rd rs1 : Reg) (imm : BitVec 12),
    let a := s.x rs1
    let sh := imm.toNat % 32
    -- bit i of the sign-extended immediate
    let immBit (i : Nat) : Bool := if i < 12 then imm.getLsbD i else imm.getLsbD 11
    WritesRegister s rd (fun v => (v.toNat : Int) = (a.toNat + imm.toInt) % 2 ^ 32) (exec (.addi rd rs1 imm) s) ∧
    WritesRegister s rd (fun v => v.toNat = a.toNat * 2 ^ sh % 2 ^ 32) (exec (.slli rd rs1 imm) s) ∧
    WritesRegister s rd (fun v => v = if a.toInt < imm.toInt then 1 else 0) (exec (.slti rd rs1 imm) s) ∧
    WritesRegister s rd (fun v => v = if (a.toNat : Int) < imm.toInt % 2 ^ 32 then 1 else 0)
      (exec (.sltiu rd rs1 imm) s) ∧
    WritesRegister s rd (fun v => ∀ i, i < 32 → v.getLsbD i = (a.getLsbD i != immBit i)) (exec (.xori rd rs1 imm) s) ∧
    WritesRegister s rd (fun v => v.toNat = a.toNat / 2 ^ sh) (exec (.srli rd rs1 imm) s) ∧
    WritesRegister s rd (fun v => v.toInt = a.toInt / 2 ^ sh) (exec (.srai rd rs1 imm) s) ∧
    WritesRegister s rd (fun v => ∀ i, i < 32 → v.getLsbD i = (a.getLsbD i || immBit i)) (exec (.ori rd rs1 imm) s) ∧
    WritesRegister s rd (fun v => ∀ i, i < 32 → v.getLsbD i = (a.getLsbD i && immBit i)) (exec (.andi rd rs1 imm) s)

/-- R130: LW completes at every address, whatever its funct3 holds (log 10): `rd` receives the whole cell that bits [6:2] of
the base plus the signed displacement name, and no byte of memory changes (logs 5, 6). -/
def Obligations.LoadWordCompletes : Prop :=
  ∀ (s : State) (rd rs1 : Reg) (imm : BitVec 12) (f3 : BitVec 3),
    let addr := s.effectiveAddress rs1 imm
    (addr.toNat : Int) = ((s.x rs1).toNat + imm.toInt) % 2 ^ 32 ∧
    WritesRegister s rd (fun v => v = s.dmem[addr.toNat / 4 % 32]) (exec (.lw rd rs1 imm f3) s)

/-- R131: SW completes at every address, whatever its funct3 holds (log 10): the four bytes of the cell that bits [6:2] of the
base plus the signed displacement name become the bytes of the source register (byte view log 3), every byte outside
that cell and every register is as it was (logs 5, 6). -/
def Obligations.StoreWordCompletes : Prop :=
  ∀ (s : State) (rs2 rs1 : Reg) (imm : BitVec 12) (f3 : BitVec 3),
    let addr := s.effectiveAddress rs1 imm
    (addr.toNat : Int) = ((s.x rs1).toNat + imm.toInt) % 2 ^ 32 ∧
    ∃ t, exec (.sw rs2 rs1 imm f3) s = .next t ∧ t.memRead addr = s.x rs2 ∧
      (∀ a : Word, a.toNat / 4 % 32 = addr.toNat / 4 % 32 →
        t.dataByte a = (s.x rs2).extractLsb' (8 * (a.toNat % 4)) 8) ∧
      (∀ a : Word, a.toNat / 4 % 32 ≠ addr.toNat / 4 % 32 → t.dataByte a = s.dataByte a) ∧
      (∀ q, t.x q = s.x q) ∧ s.NextInOrder t ∧ t.cycle = s.cycle + 1 ∧ t.halted = s.halted ∧
      (∀ a, t.instrByte a = s.instrByte a)

/-- R135 to R141: every branch completes, for all operands and offsets; it is taken exactly when the rule's comparison of the
two registers holds, to its own address plus the offset, and changes the pc and the cycle counter only (a target that
is no multiple of 4 is rounded down, decision D4, log 5; log 6). -/
def Obligations.BranchInstructionsComplete : Prop :=
  ∀ (s : State) (rs1 rs2 : Reg) (offset : BitVec 13),
    let a := s.x rs1
    let b := s.x rs2
    Branches s offset (a = b) (exec (.beq rs1 rs2 offset) s) ∧
    Branches s offset (a ≠ b) (exec (.bne rs1 rs2 offset) s) ∧
    Branches s offset (a.toInt < b.toInt) (exec (.blt rs1 rs2 offset) s) ∧
    Branches s offset (b.toInt ≤ a.toInt) (exec (.bge rs1 rs2 offset) s) ∧
    Branches s offset (a.toNat < b.toNat) (exec (.bltu rs1 rs2 offset) s) ∧
    Branches s offset (b.toNat ≤ a.toNat) (exec (.bgeu rs1 rs2 offset) s)

/-- R145 to R147 (pc and cycle of a halting step: decision D14, log 14): the three halting words complete, setting the halted
flag and leaving everything else as it was. -/
def Obligations.HaltingInstructionsOnlySetHalted : Prop :=
  ∀ (s : State), ∀ i ∈ [Instr.haltZero, .haltEcall, .haltEbreak], exec i s = .next { s with halted := true }

/-- R150 to R154 (decisions D10, D11, D18, logs 11, 12, 17; also logs 5, 6): the encode-only instructions, the two branch
encodings without a condition and every unrecognised word complete as no-ops that advance the pc. -/
def Obligations.UnexecutedInstructionsOnlyAdvance : Prop :=
  ∀ s : State,
    (∀ rd imm, OnlyAdvances s (exec (.lui rd imm) s)) ∧
    (∀ rd offset, OnlyAdvances s (exec (.jal rd offset) s)) ∧
    (∀ rs1 rs2 offset, OnlyAdvances s (exec (.branchFunct3_010 rs1 rs2 offset) s)) ∧
    (∀ rs1 rs2 offset, OnlyAdvances s (exec (.branchFunct3_011 rs1 rs2 offset) s)) ∧
    (∀ f7 rs2 rs1 f3 rd op, OnlyAdvances s (exec (.unrecognised f7 rs2 rs1 f3 rd op) s))

/-! ## The step -/

/-- A core that is not halted and whose pc is inside instruction memory runs exactly the instruction that the word at its pc
decodes to; the step adds nothing around it. -/
def Obligations.StepRunsDecodedInstruction : Prop :=
  ∀ (s : State) (i : Instr) (inside : s.pc.toNat / 4 < 256),
    s.halted = false → decode (s.imem[s.pc.toNat / 4]) = i → step s = exec i s

/-- The step is the datapath of R95: fetch, field decoder, control table, ALU, memory phase and write-back reach the same
state as the instruction's own meaning, for every state (the table's open points are logs 8 to 13, the commit logs 5, 6). -/
def Obligations.StepIsTheDatapathTransition : Prop :=
  ∀ s : State, step s = .next (datapathStep s)

/-- R92, R100, R203, R207: the step is total, with three outcomes: absent on a halted core, whose state stays as it is; halted
now; or executed. That the first is a next state is the model's choice (log 19), and the halt mark of the second is the
spec's own decision D14 (log 14); that the result of the third shows the mark as false is log 35. -/
def Obligations.StepIsTotalWithThreeOutcomes : Prop :=
  ∀ s : State, ∃ t, step s = .next t ∧
    ((s.halted = true ∧ t = s ∧ stepResult s = none) ∨
     (s.halted = false ∧ t.halted = true ∧ ∃ r, stepResult s = some r ∧ r.haltedNow = true) ∨
     (s.halted = false ∧ t.halted = false ∧ ∃ r, stepResult s = some r ∧ r.haltedNow = false))

/-- R222: a fetched halting word sets the halted flag and changes nothing else; the pc stays at the word. -/
def Obligations.HaltingWordStopsTheCore : Prop :=
  ∀ (s : State) (w : Word), s.halted = false → s.fetch = some w →
    w = 0x00000000 ∨ w = 0x00000073 ∨ w = 0x00100073 → step s = .next { s with halted := true }

/-- R221, R223, R225 (decisions D14, D15, logs 14, 15): a running core stops exactly when the pc is 1024 or more or the cell it
names holds one of the three halting words, and then nothing but the halted flag has changed. -/
def Obligations.FourEventsEndExecution : Prop :=
  ∀ s t : State, s.halted = false → step s = .next t →
    (t.halted = true ↔ 1024 ≤ s.pc.toNat ∨
      ∃ inside : s.pc.toNat / 4 < 256,
        s.imem[s.pc.toNat / 4] = 0x00000000 ∨ s.imem[s.pc.toNat / 4] = 0x00000073 ∨ s.imem[s.pc.toNat / 4] = 0x00100073) ∧
    (t.halted = true → t = { s with halted := true })

/-- R16 (with R15, decision D4, log 5): how a step changes the pc. A halted core and a halting step leave it; a taken branch
adds the signed offset; every other executed word adds 4; and of the host's operations reset and load set it to 0 and
the edits leave it. -/
def Obligations.ProgramCounterFollowsStep : Prop :=
  (∀ s t : State, step s = .next t →
    (s.halted = true ∨ t.halted = true → t.pc = s.pc) ∧
    (∀ w, s.fetch = some w → t.halted = false →
      let a := s.x (rs1Of w)
      let b := s.x (rs2Of w)
      let f3 := funct3Of w
      let taken := opcodeOf w = 0x63 ∧
        ((f3 = 0 ∧ a = b) ∨ (f3 = 1 ∧ a ≠ b) ∨ (f3 = 4 ∧ a.toInt < b.toInt) ∨ (f3 = 5 ∧ b.toInt ≤ a.toInt) ∨
          (f3 = 6 ∧ a.toNat < b.toNat) ∨ (f3 = 7 ∧ b.toNat ≤ a.toNat))
      (taken → (t.pc.toNat : Int) = (s.pc.toNat + (immBOf w).toInt) % 2 ^ 32 / 4 * 4) ∧
      (¬ taken → s.NextInOrder t))) ∧
  (∀ s : State, s.resetCore.pc = 0 ∧ (∀ p, (s.loadWords p).pc = 0) ∧ (∀ i v, (s.regEdit i v).pc = s.pc) ∧
    (∀ k v, (s.dmemEdit k v).pc = s.pc))

/-- R20 and R99 (decision D5, log 6): the cycle counter counts, modulo 2^32, the steps that execute an instruction, and only
those. -/
def Obligations.CycleCountsExecutedInstructions : Prop :=
  ∀ s t : State, step s = .next t →
    t.cycle.toNat = if s.halted = false ∧ t.halted = false then (s.cycle.toNat + 1) % 2 ^ 32 else s.cycle.toNat

/-- R12 and R98 (decision D11, log 12): a step changes at most the register its word's `rd` field names, not register 0, and
only for opcode 0x33, 0x13 or 0x03. -/
def Obligations.StepChangesOnlyTheDestinationRegister : Prop :=
  ∀ (s t : State) (q : Reg), step s = .next t → t.x q ≠ s.x q →
    ∃ w, s.fetch = some w ∧ q = rdOf w ∧ q ≠ 0 ∧ opcodeOf w ∈ [(0x33 : BitVec 7), 0x13, 0x03]

/-! ## Memory -/

/-- R44: instruction memory changes only by a program load, which also resets the core; a store is never seen by a fetch. -/
def Obligations.InstructionMemoryChangesOnlyByLoad : Prop :=
  (∀ s t : State, step s = .next t → t.imem = s.imem) ∧
  (∀ (s : State) (addr v : Word), (s.memWrite addr v).fetch = s.fetch) ∧
  (∀ (e : Event) (s : State), (e.apply s).imem ≠ s.imem →
    ∃ p, e = .load p ∧ e.apply s = { State.reset with imem := (e.apply s).imem })

/-- R31, R32 and R34: a data address names the cell of its bits [6:2]; a read returns the whole cell; a write replaces that
cell and no other; addresses 128 apart, and the low two bits, name the same cell; no access fails. -/
def Obligations.DataAddressesSelectCells : Prop :=
  ∀ (s : State) (addr v : Word),
    s.memRead addr = s.dmem[addr.toNat / 4 % 32] ∧
    (∀ k : DataCell, (s.memWrite addr v).cell k = if k.toNat = addr.toNat / 4 % 32 then v else s.cell k) ∧
    (∃ m, s.memWrite addr v = { s with dmem := m }) ∧
    (∀ n : Nat, s.memRead (addr + BitVec.ofNat 32 (128 * n)) = s.memRead addr ∧
      s.memWrite (addr + BitVec.ofNat 32 (128 * n)) v = s.memWrite addr v) ∧
    (∀ low : Word, low.toNat < 4 → s.memRead ((addr &&& 0xFFFFFFFC) + low) = s.memRead addr) ∧
    s.memRead 0xFFFFFF80 = s.cell 0 ∧ s.memRead 0xFFFFFFFC = s.cell 31 ∧
    (∀ rs1, s.x rs1 = 0 → dataCell (s.effectiveAddress rs1 (-4)) = 31)

/-- R46: only a store changes data memory, one cell, at the base plus the S immediate, and no register with it; only a load's
outcome depends on data memory, one cell, at the base plus the I immediate; a load changes no register but its
destination. -/
def Obligations.OnlyLoadAndStoreReachDataMemory : Prop :=
  ∀ (s t : State) (w : Word), s.halted = false → s.fetch = some w → step s = .next t →
    (opcodeOf w ≠ 0x23 → t.dmem = s.dmem) ∧
    (opcodeOf w = 0x23 →
      (∀ k, t.cell k = if k = dataCell (s.x (rs1Of w) + sext12 (immSOf w)) then s.x (rs2Of w) else s.cell k) ∧
      ∀ q, t.x q = s.x q) ∧
    (opcodeOf w = 0x03 →
      (rdOf w ≠ 0 → t.x (rdOf w) = s.cell (dataCell (s.x (rs1Of w) + sext12 (immIOf w)))) ∧
      ∀ q, q ≠ rdOf w → t.x q = s.x q) ∧
    (opcodeOf w ≠ 0x03 → ∀ m, ∃ t', step { s with dmem := m } = .next t' ∧ t'.regs = t.regs ∧ t'.pc = t.pc ∧
      t'.halted = t.halted ∧ t'.cycle = t.cycle ∧ t'.imem = t.imem)

/-- R132: a load that follows a store to the same cell, with any number of steps in between that do not store to that cell,
returns the stored value; with none in between too (there is no load-use delay). -/
def Obligations.LoadReturnsLatestStore : Prop :=
  ∀ (s s1 s2 s3 : State) (n : Nat) (src base rd base' : Reg) (imm imm' : BitVec 12) (f3 f3' : BitVec 3),
    exec (.sw src base imm f3) s = .next s1 →
    Sys2Proof.core.run n s1 = .next s2 →
    (∀ m, m < n → ∀ u, Sys2Proof.core.run m s1 = .next u → ¬ State.StoresTo u (dataCell (s.effectiveAddress base imm))) →
    exec (.lw rd base' imm' f3') s2 = .next s3 →
    dataCell (s2.effectiveAddress base' imm') = dataCell (s.effectiveAddress base imm) →
    rd ≠ 0 → s3.x rd = s.x src

/-! ## Invariants -/

/-- Every step keeps the invariant: the cell of register 0 holds 0 and the pc is a multiple of 4. -/
def Obligations.StepKeepsInvariant : Prop :=
  ∀ s t : State, s.Inv → step s = .next t → t.Inv

/-- The state after reset meets the invariant. -/
def Obligations.ResetMeetsInvariant : Prop := State.reset.Inv

/-- R27 (a) and (b) (the pc part rests on decision D4, log 5): the invariant holds in every state that steps, resets, loads
and edits lead to, in any order and number. -/
def Obligations.ReachableStatesMeetInvariant : Prop :=
  ∀ s : State, Reachable s → s.Inv

/-- R11: register 0 reads 0 in every state, whatever its stored cell holds; nothing the core or the host does depends on that
cell; an edit of register 0 changes nothing, and no instruction naming it writes back. -/
def Obligations.RegisterZeroReadsZero : Prop :=
  (∀ (es : List Event) (s : State), (runEvents es s).x 0 = 0) ∧
  (∀ (s : State) (v : Nat), s.regEdit 0 v = s) ∧
  (∀ (cls : OpClass) (d : Decoded), d.rd = 0 → writeBackEnable cls d = false) ∧
  (∀ (s t : State) (stored : Word), step s = .next t →
    ∃ t', step { s with regs := s.regs.set 0 stored } = .next t' ∧ (∀ q, t'.x q = t.x q) ∧ t'.pc = t.pc ∧
      t'.halted = t.halted ∧ t'.cycle = t.cycle ∧ t'.dmem = t.dmem ∧ t'.imem = t.imem)

/-- R227: a halted core leaves the halted state by reset or program load and by nothing else; both restart at address 0 with
seeded registers and data memory; a step on it changes nothing; and a branch to itself is not a halt. -/
def Obligations.OnlyResetAndLoadLeaveHalted : Prop :=
  (∀ (e : Event) (s : State), s.halted = true →
    ((e.apply s).halted = false ↔ e = .reset ∨ ∃ p, e = .load p) ∧
    ((e.apply s).halted = false → (e.apply s).pc = 0 ∧ (e.apply s).regs = State.reset.regs ∧
      (e.apply s).dmem = State.reset.dmem) ∧
    Event.apply .step s = s) ∧
  (∀ s : State, s.Inv → s.halted = false → s.fetch = some 0x00000063 →
    step s = .next { s with cycle := s.cycle + 1 }) ∧
  (∀ s : State, s.halted = false → s.fetch = some 0x30200073 → OnlyAdvances s (step s))

/-! ## Reset, load and edits -/

/-- R209: reset sets pc, cycle counter and halted flag to 0 and registers and data memory to their seeds, and leaves
instruction memory; it may be requested in every state, halted or not. -/
def Obligations.ResetRestoresSeeds : Prop :=
  ∀ s : State, s.resetCore.pc = 0 ∧ s.resetCore.cycle = 0 ∧ s.resetCore.halted = false ∧
    (∀ r, s.resetCore.x r = Config.regSeed r) ∧ (∀ k, s.resetCore.cell k = Config.dmemSeed k) ∧
    s.resetCore.imem = s.imem ∧ (∀ a, s.resetCore.instrByte a = s.instrByte a)

/-- R241 (decision D3, log 4): the power-on state is the reset state with every instruction cell 0, and its first step halts
at address 0. -/
def Obligations.FreshCoreHaltsAtOnce : Prop :=
  State.reset.resetCore = State.reset ∧ (∀ k (h : k < 256), State.reset.imem[k] = 0) ∧
    step State.reset = .next { State.reset with halted := true }

/-- R200: a load puts the program's Words in instruction memory from cell 0, zero in every other cell, and resets; what the
core held before, edits included, is lost; a text of either kind that converts is loaded so. -/
def Obligations.LoadPlacesProgramAndResets : Prop :=
  (∀ (s : State) (p : List Word),
    (∀ k (h : k < 256), (s.loadWords p).imem[k] = if h' : k < p.length then p[k] else 0) ∧
    s.loadWords p = { State.reset with imem := (s.loadWords p).imem } ∧
    ∀ s' : State, s'.loadWords p = s.loadWords p) ∧
  (∀ (s : State) (src : Text) (out : Assembled), (s.loadText src).1 = .ok out →
    parseProgram src = .ok out ∧ (s.loadText src).2 = s.loadWords out.words)

/-- R202 (decision D22, log 31): a load fails exactly when a line of a hex text is not one to eight hex digits or the
assembler reports an error, and a failed load changes nothing. -/
def Obligations.FailedLoadChangesNothing : Prop :=
  ∀ (s : State) (src : Text),
    ((∃ e, (s.loadText src).1 = .error e) ↔
      (isHexText src = true ∧ ∃ line ∈ contentLines src, isHexLine line = false) ∨
      (isHexText src = false ∧ ∃ e, assemble src = .error e)) ∧
    ((∃ e, (s.loadText src).1 = .error e) → (s.loadText src).2 = s)

/-- R210 and R211 (decision D23, log 32; values wider than 32 bits: the spec's derivation): an edit sets one register, not
register 0, or one data cell, and changes nothing else. -/
def Obligations.EditsChangeOnePlace : Prop :=
  ∀ s : State,
    (∀ (i : Reg) (v : Nat),
      (∀ q, (s.regEdit i v).x q = if q = i ∧ i ≠ 0 then BitVec.ofNat 32 (v % 2 ^ 32) else s.x q) ∧
      ∃ rs, s.regEdit i v = { s with regs := rs }) ∧
    (∀ (k : DataCell) (v : Word),
      (∀ j, (s.dmemEdit k v).cell j = if j = k then v else s.cell j) ∧ ∃ m, s.dmemEdit k v = { s with dmem := m })

/-! ## The step as the host sees it -/

/-- R204 and R205: the phase-by-phase step ends in the state of the synchronous step and with its result, its phases in the
fixed order. That a step halting in its fetch has one notification, with the halt-marked result, is the model's choice
(log 23). -/
def Obligations.PhasedStepEqualsStep : Prop :=
  ∀ s : State,
    (∀ n, 5 ≤ n → step s = .next (cancelAfter n s)) ∧
    ((checkpoints s).getLast?.map Checkpoint.result = stepResult s) ∧
    ((checkpoints s).map Checkpoint.phase <+: [Phase.fetch, .decode, .execute, .memory, .writeBack])

/-- R208 (decision D25, log 24): a step cancelled before its write-back can be run again and ends as if it had not been
cancelled; cancelled before the memory phase it has changed nothing but, if the fetch halted, the halted flag. -/
def Obligations.CancelledStepCanBeRunAgain : Prop :=
  ∀ (s : State) (n : Nat),
    (n ≤ 4 → step (cancelAfter n s) = step s) ∧
    (n ≤ 3 → cancelAfter n s = s ∨ cancelAfter n s = { s with halted := true }) ∧
    (n ≤ 4 → (cancelAfter n s).regs = s.regs ∧ (cancelAfter n s).pc = s.pc ∧ (cancelAfter n s).cycle = s.cycle)

/-- R206 and R207 (decisions D14, D27, logs 14, 34; `haltedNow` false when executed, log 35): what the step result reports
is what the step did: the word, the pc before and after, the data access, the register written; and a halting step reports the halt only. -/
def Obligations.StepResultReportsTheStep : Prop :=
  ∀ (s t : State) (r : StepResult), step s = .next t → stepResult s = some r →
    r.instr = s.fetch ∧ r.pcBefore = s.pc ∧ r.pcAfter = some t.pc ∧ (r.haltedNow = t.halted) ∧
    (r.wbEnable = true → ∃ wb, r.writeBack = some wb ∧ t.x wb.target = wb.value ∧ ∀ q, q ≠ wb.target → t.x q = s.x q) ∧
    (r.wbEnable = false → ∀ q, t.x q = s.x q) ∧
    (∀ m, r.memory = some m → m.index = dataCell m.address ∧
      (m.isWrite = true → t.cell m.index = m.data) ∧ (m.isWrite = false → s.cell m.index = m.data)) ∧
    (t.dmem ≠ s.dmem → ∃ m, r.memory = some m ∧ m.isWrite = true) ∧
    (r.haltedNow = true → r.decoded = none ∧ r.control = none ∧ r.execute = none ∧ r.memory = none ∧
      r.wbEnable = false ∧ r.writeBack = none) ∧
    (∀ w, r.instr = some w → r.haltedNow = false → r.decoded = some (decodeFields w))

/-! ## The assembler and the loader's texts -/

/-- The grammar of R168: the register tokens are exactly x0 to x31, and reading a token in a register position that is none of
them answers the error naming the mnemonic and the token. That the error is the error of the whole call is
`FirstFailingOperandAbortsAssembly`. -/
def Obligations.RegisterTokensAreX0ToX31 : Prop :=
  (∀ (t : Text) (r : Reg), parseRegister t = some r ↔ t = 'x' :: (Nat.repr r.toNat).toList) ∧
  (∀ (m : Text) (token : Option Text),
    (∃ r, needRegister m token = .ok r ∧ token.bind parseRegister = some r) ∨
    needRegister m token = .error (.invalidRegister m token) ∧ ∀ t, token = some t → parseRegister t = none)

/-- R164 and R165 (duplicates: decision D20, log 29; comment lines: decision D17, log 25): pass 1 succeeds exactly when no
label is defined twice; else its error names a label that is; when it succeeds it binds each label to four times the
number of instruction lines before it. -/
def Obligations.LabelsAreBoundToLineAddresses : Prop :=
  ∀ lines : List Line,
    ((∃ table, collectLabels lines 0 [] = .ok table) ↔ (labelNames lines).Nodup) ∧
    ((∀ table, collectLabels lines 0 [] ≠ .ok table) →
      ∃ name, 2 ≤ (labelNames lines).count name ∧ collectLabels lines 0 [] = .error (.duplicateLabel name)) ∧
    (∀ table, collectLabels lines 0 [] = .ok table → ∀ before name after, lines = before ++ .label name :: after →
      table.lookup name = some (4 * before.countP Line.isInstruction))

/-- R167, R168, R170, R173 to R175 and R180 (order of the checks and missing tokens: decision D19; addressing and abort:
decision D24; log 26): once every line before it has been handled, an instruction line whose mnemonic is known aborts the
whole assembly at its first operand that fails, with the error naming the mnemonic and the token; a load or store line of
fewer than three operands aborts it as unsupported addressing. -/
def Obligations.FirstFailingOperandAbortsAssembly : Prop :=
  ∀ (src : Text) (before after : List Line) (labels : LabelTable) (handled : Assembled) (line m : Text) (ops : List Text)
    (form : AsmForm),
    sourceLines src = before ++ .instruction line :: after → collectLabels (sourceLines src) 0 [] = .ok labels →
    encodeLines labels before 0 = .ok handled → tokens line = m :: ops → asmTable.lookup m = some form →
    let shortAddressing := (form = .lw ∨ form = .sw) ∧ ops.length < 3
    (shortAddressing → assemble src = .error (.unsupportedAddressing m)) ∧
    (¬ shortAddressing → ∀ (k : Nat) (kind : OperandKind), form.operandKinds[k]? = some kind →
      kind.accepts labels ops[k]? = false →
      (∀ (j : Nat) (earlier : OperandKind), j < k → form.operandKinds[j]? = some earlier →
        earlier.accepts labels ops[j]? = true) →
      assemble src = .error (kind.error m ops[k]?))

/-- R178 and R181: an assembly that does not fail gives one Word or one warning for each instruction line (a line of
separators only counts as one, log 28). -/
def Obligations.WordsAndWarningsCountInstructionLines : Prop :=
  ∀ (src : Text) (out : Assembled), assemble src = .ok out →
    out.words.length + out.warnings.length = (sourceLines src).countP Line.isInstruction

/-- R167 to R178 (encodings log 8; shift immediates log 30): every Word the assembler emits decodes to an instruction of one
of its 26 mnemonics: it never emits a halting word or an unrecognised word. -/
def Obligations.AssembledWordsDecodeToAssemblerMnemonics : Prop :=
  ∀ (src : Text) (out : Assembled), assemble src = .ok out →
    ∀ w ∈ out.words, (decode w).mnemonic ∈ asmForms.map Prod.fst

/-- R175 and R184 (positions of the pieces log 8): a branch line to a known label within range assembles to a word whose
decoded immediate is the label's address minus the branch's, negative for a label before it and positive for one after
it; an unknown label is an error naming it. -/
def Obligations.BranchOffsetIsLabelMinusAddress : Prop :=
  ∀ (labels : LabelTable) (pc : Nat) (m t1 t2 name : Text) (f3 : Nat) (rs1 rs2 : Reg),
    asmTable.lookup m = some (.branch f3) → parseRegister t1 = some rs1 → parseRegister t2 = some rs2 →
    (∀ address : Nat, labels.lookup name = some address → address % 4 = 0 → pc % 4 = 0 →
      -4096 ≤ (address : Int) - pc ∧ (address : Int) - pc ≤ 4094 →
      ∃ w, assembleTokens labels pc [m, t1, t2, name] = .ok (some w) ∧ opcodeOf w = 0x63 ∧ rs1Of w = rs1 ∧
        rs2Of w = rs2 ∧ (decodeFields w).imm.toInt = (address : Int) - pc ∧
        (address < pc → (decodeFields w).imm.toInt < 0) ∧ (pc < address → 0 < (decodeFields w).imm.toInt)) ∧
    (labels.lookup name = none →
      assembleTokens labels pc [m, t1, t2, name] = .error (.undefinedLabel m (some name)))

/-- R201 (decision D22, log 31): the hex text of a program, one Word of eight digits a line, loads as that program. -/
def Obligations.HexTextLoadsBack : Prop :=
  ∀ ws : List Word, parseProgram (hexText ws) = .ok ⟨ws, []⟩
end

