-- ==== Sys2Proof/Laws/Assembler.lean ====
section
/-! SUPPORT. What reading one operand of an instruction line answers, and that an error on a line is the error of pass 2. -/

namespace Sys2Proof.Machine

variable {labels : LabelTable} {m : Text} {token : Option Text}

/-! ## One operand: its value when the token is accepted, the error that names it when not -/

theorem needRegister_of_accepts (h : OperandKind.register.accepts labels token = true) :
    ∃ r, needRegister m token = .ok r := by
  cases token with
  | none => cases h
  | some t =>
    obtain ⟨r, hr⟩ := Option.isSome_iff_exists.1 h
    exact ⟨r, by simp [needRegister, hr]⟩

theorem needRegister_of_not_accepts (h : OperandKind.register.accepts labels token = false) :
    needRegister m token = .error (OperandKind.register.error m token) := by
  cases token with
  | none => rfl
  | some t => simp_all [OperandKind.accepts, needRegister, OperandKind.error]

theorem needImmediate_of_accepts (h : OperandKind.immediate.accepts labels token = true) :
    ∃ v, needImmediate m token = .ok v := by
  cases token with
  | none => cases h
  | some t =>
    obtain ⟨v, hv⟩ := Option.isSome_iff_exists.1 h
    exact ⟨v, by simp [needImmediate, hv]⟩

theorem needImmediate_of_not_accepts (h : OperandKind.immediate.accepts labels token = false) :
    needImmediate m token = .error (OperandKind.immediate.error m token) := by
  cases token with
  | none => rfl
  | some t => simp_all [OperandKind.accepts, needImmediate, OperandKind.error]

theorem needLabel_of_accepts (h : OperandKind.label.accepts labels token = true) :
    ∃ address, needLabel labels m token = .ok address := by
  cases token with
  | none => cases h
  | some t =>
    obtain ⟨address, ha⟩ := Option.isSome_iff_exists.1 h
    exact ⟨address, by simp [needLabel, ha]⟩

theorem needLabel_of_not_accepts (h : OperandKind.label.accepts labels token = false) :
    needLabel labels m token = .error (OperandKind.label.error m token) := by
  cases token with
  | none => rfl
  | some t =>
    have none_found : labels.lookup t = none := Option.isSome_eq_false_iff.1 h |> Option.isNone_iff_eq_none.1
    simp [needLabel, none_found, OperandKind.error]

/-! ## Pass 2 -/

/-- Once the lines before it have been handled, the error of a line is the error of pass 2 (R180). -/
theorem encodeLines_error_aborts {line : Text} {after : List Line} {e : AsmError}
    (he : ∀ pc, assembleTokens labels pc (tokens line) = .error e) :
    ∀ {before : List Line} {pc : Nat} {handled : Assembled}, encodeLines labels before pc = .ok handled →
      encodeLines labels (before ++ .instruction line :: after) pc = .error e := by
  intro before
  induction before with
  | nil => intros; simp [encodeLines, he]
  | cons first rest ih =>
    intro pc handled h
    cases first with
    | instruction text =>
      simp only [List.cons_append, encodeLines] at h ⊢
      split at h
      · cases h
      · split at h
        · cases h
        · rename_i ho
          rw [ih ho]
    | blank => exact ih (pc := pc) h
    | comment => exact ih (pc := pc) h
    | label name => exact ih (pc := pc) h

end Sys2Proof.Machine
end

