-- ==== Sys2Proof/Laws/Fields.lean ====
section
/-! SUPPORT. What the fields of a packed word are, and that the fields of a word pack to it again, for every format of
spec/30_encoding.md. Each lemma is one bit-by-bit check; later proofs cite these and never unfold a format. -/

namespace Sys2Proof.Laws

/-! ## The R format -/

@[simp] theorem opcodeOf_packR (f7 : BitVec 7) (rs2 rs1 : Reg) (f3 : BitVec 3) (rd : Reg) (op : BitVec 7) :
    opcodeOf (packR f7 rs2 rs1 f3 rd op) = op := by
  ext i hi; simp only [opcodeOf, packR, putAt]
  interval_cases i <;> simp

@[simp] theorem rdOf_packR (f7 : BitVec 7) (rs2 rs1 : Reg) (f3 : BitVec 3) (rd : Reg) (op : BitVec 7) :
    rdOf (packR f7 rs2 rs1 f3 rd op) = rd := by
  ext i hi; simp only [rdOf, packR, putAt]
  interval_cases i <;> simp

@[simp] theorem funct3Of_packR (f7 : BitVec 7) (rs2 rs1 : Reg) (f3 : BitVec 3) (rd : Reg) (op : BitVec 7) :
    funct3Of (packR f7 rs2 rs1 f3 rd op) = f3 := by
  ext i hi; simp only [funct3Of, packR, putAt]
  interval_cases i <;> simp

@[simp] theorem rs1Of_packR (f7 : BitVec 7) (rs2 rs1 : Reg) (f3 : BitVec 3) (rd : Reg) (op : BitVec 7) :
    rs1Of (packR f7 rs2 rs1 f3 rd op) = rs1 := by
  ext i hi; simp only [rs1Of, packR, putAt]
  interval_cases i <;> simp

@[simp] theorem rs2Of_packR (f7 : BitVec 7) (rs2 rs1 : Reg) (f3 : BitVec 3) (rd : Reg) (op : BitVec 7) :
    rs2Of (packR f7 rs2 rs1 f3 rd op) = rs2 := by
  ext i hi; simp only [rs2Of, packR, putAt]
  interval_cases i <;> simp

@[simp] theorem funct7Of_packR (f7 : BitVec 7) (rs2 rs1 : Reg) (f3 : BitVec 3) (rd : Reg) (op : BitVec 7) :
    funct7Of (packR f7 rs2 rs1 f3 rd op) = f7 := by
  ext i hi; simp only [funct7Of, packR, putAt]
  interval_cases i <;> simp

@[simp] theorem bit30_packR (f7 : BitVec 7) (rs2 rs1 : Reg) (f3 : BitVec 3) (rd : Reg) (op : BitVec 7) :
    bit30 (packR f7 rs2 rs1 f3 rd op) = f7.getLsbD 5 := by
  simp [bit30, packR, putAt]

/-! ## The I format -/

@[simp] theorem opcodeOf_packI (imm : BitVec 12) (rs1 : Reg) (f3 : BitVec 3) (rd : Reg) (op : BitVec 7) :
    opcodeOf (packI imm rs1 f3 rd op) = op := by
  ext i hi; simp only [opcodeOf, packI, putAt]
  interval_cases i <;> simp

@[simp] theorem rdOf_packI (imm : BitVec 12) (rs1 : Reg) (f3 : BitVec 3) (rd : Reg) (op : BitVec 7) :
    rdOf (packI imm rs1 f3 rd op) = rd := by
  ext i hi; simp only [rdOf, packI, putAt]
  interval_cases i <;> simp

@[simp] theorem funct3Of_packI (imm : BitVec 12) (rs1 : Reg) (f3 : BitVec 3) (rd : Reg) (op : BitVec 7) :
    funct3Of (packI imm rs1 f3 rd op) = f3 := by
  ext i hi; simp only [funct3Of, packI, putAt]
  interval_cases i <;> simp

@[simp] theorem rs1Of_packI (imm : BitVec 12) (rs1 : Reg) (f3 : BitVec 3) (rd : Reg) (op : BitVec 7) :
    rs1Of (packI imm rs1 f3 rd op) = rs1 := by
  ext i hi; simp only [rs1Of, packI, putAt]
  interval_cases i <;> simp

@[simp] theorem immIOf_packI (imm : BitVec 12) (rs1 : Reg) (f3 : BitVec 3) (rd : Reg) (op : BitVec 7) :
    immIOf (packI imm rs1 f3 rd op) = imm := by
  ext i hi; simp only [immIOf, packI, putAt]
  interval_cases i <;> simp

@[simp] theorem bit30_packI (imm : BitVec 12) (rs1 : Reg) (f3 : BitVec 3) (rd : Reg) (op : BitVec 7) :
    bit30 (packI imm rs1 f3 rd op) = imm.getLsbD 10 := by
  simp [bit30, packI, putAt]

/-! ## The S format -/

@[simp] theorem opcodeOf_packS (imm : BitVec 12) (rs2 rs1 : Reg) (f3 : BitVec 3) (op : BitVec 7) :
    opcodeOf (packS imm rs2 rs1 f3 op) = op := by
  ext i hi; simp only [opcodeOf, packS, putAt]
  interval_cases i <;> simp

@[simp] theorem funct3Of_packS (imm : BitVec 12) (rs2 rs1 : Reg) (f3 : BitVec 3) (op : BitVec 7) :
    funct3Of (packS imm rs2 rs1 f3 op) = f3 := by
  ext i hi; simp only [funct3Of, packS, putAt]
  interval_cases i <;> simp

@[simp] theorem rs1Of_packS (imm : BitVec 12) (rs2 rs1 : Reg) (f3 : BitVec 3) (op : BitVec 7) :
    rs1Of (packS imm rs2 rs1 f3 op) = rs1 := by
  ext i hi; simp only [rs1Of, packS, putAt]
  interval_cases i <;> simp

@[simp] theorem rs2Of_packS (imm : BitVec 12) (rs2 rs1 : Reg) (f3 : BitVec 3) (op : BitVec 7) :
    rs2Of (packS imm rs2 rs1 f3 op) = rs2 := by
  ext i hi; simp only [rs2Of, packS, putAt]
  interval_cases i <;> simp

@[simp] theorem immSOf_packS (imm : BitVec 12) (rs2 rs1 : Reg) (f3 : BitVec 3) (op : BitVec 7) :
    immSOf (packS imm rs2 rs1 f3 op) = imm := by
  ext i hi; simp only [immSOf, packS, putAt]
  interval_cases i <;> simp

/-! ## The B format -/

@[simp] theorem opcodeOf_packB (o : BitVec 13) (rs2 rs1 : Reg) (f3 : BitVec 3) (op : BitVec 7) :
    opcodeOf (packB o rs2 rs1 f3 op) = op := by
  ext i hi; simp only [opcodeOf, packB, putAt]
  interval_cases i <;> simp

@[simp] theorem funct3Of_packB (o : BitVec 13) (rs2 rs1 : Reg) (f3 : BitVec 3) (op : BitVec 7) :
    funct3Of (packB o rs2 rs1 f3 op) = f3 := by
  ext i hi; simp only [funct3Of, packB, putAt]
  interval_cases i <;> simp

@[simp] theorem rs1Of_packB (o : BitVec 13) (rs2 rs1 : Reg) (f3 : BitVec 3) (op : BitVec 7) :
    rs1Of (packB o rs2 rs1 f3 op) = rs1 := by
  ext i hi; simp only [rs1Of, packB, putAt]
  interval_cases i <;> simp

@[simp] theorem rs2Of_packB (o : BitVec 13) (rs2 rs1 : Reg) (f3 : BitVec 3) (op : BitVec 7) :
    rs2Of (packB o rs2 rs1 f3 op) = rs2 := by
  ext i hi; simp only [rs2Of, packB, putAt]
  interval_cases i <;> simp

theorem packB_piece31 (o : BitVec 13) (rs2 rs1 : Reg) (f3 : BitVec 3) (op : BitVec 7) :
    (packB o rs2 rs1 f3 op).extractLsb' 31 1 = o.extractLsb' 12 1 := by
  ext i hi; simp only [packB, putAt]
  interval_cases i; simp

theorem packB_piece7 (o : BitVec 13) (rs2 rs1 : Reg) (f3 : BitVec 3) (op : BitVec 7) :
    (packB o rs2 rs1 f3 op).extractLsb' 7 1 = o.extractLsb' 11 1 := by
  ext i hi; simp only [packB, putAt]
  interval_cases i; simp

theorem packB_piece25 (o : BitVec 13) (rs2 rs1 : Reg) (f3 : BitVec 3) (op : BitVec 7) :
    (packB o rs2 rs1 f3 op).extractLsb' 25 6 = o.extractLsb' 5 6 := by
  ext i hi; simp only [packB, putAt]
  interval_cases i <;> simp

theorem packB_piece8 (o : BitVec 13) (rs2 rs1 : Reg) (f3 : BitVec 3) (op : BitVec 7) :
    (packB o rs2 rs1 f3 op).extractLsb' 8 4 = o.extractLsb' 1 4 := by
  ext i hi; simp only [packB, putAt]
  interval_cases i <;> simp

/-- Bit 0 of the offset is not stored (30_encoding.md R64): it comes back 0. -/
theorem immBOf_packB (o : BitVec 13) (rs2 rs1 : Reg) (f3 : BitVec 3) (op : BitVec 7) :
    immBOf (packB o rs2 rs1 f3 op) = putAt 13 1 (o.extractLsb' 1 12) := by
  simp only [immBOf, packB_piece31, packB_piece7, packB_piece25, packB_piece8]
  ext i hi; simp only [putAt]
  interval_cases i <;> simp

/-- An even offset comes back whole. -/
theorem immBOf_packB_even (o : BitVec 13) (rs2 rs1 : Reg) (f3 : BitVec 3) (op : BitVec 7) (even : o.getLsbD 0 = false) :
    immBOf (packB o rs2 rs1 f3 op) = o := by
  rw [immBOf_packB]
  ext i hi; simp only [putAt]
  interval_cases i
  · simpa using even.symm
  all_goals simp

/-! ## The U format -/

@[simp] theorem opcodeOf_packU (imm : BitVec 20) (rd : Reg) (op : BitVec 7) :
    opcodeOf (packU imm rd op) = op := by
  ext i hi; simp only [opcodeOf, packU, putAt]
  interval_cases i <;> simp

@[simp] theorem rdOf_packU (imm : BitVec 20) (rd : Reg) (op : BitVec 7) :
    rdOf (packU imm rd op) = rd := by
  ext i hi; simp only [rdOf, packU, putAt]
  interval_cases i <;> simp

@[simp] theorem immUOf_packU (imm : BitVec 20) (rd : Reg) (op : BitVec 7) :
    immUOf (packU imm rd op) = imm := by
  ext i hi; simp only [immUOf, packU, putAt]
  interval_cases i <;> simp

/-! ## The J format -/

@[simp] theorem opcodeOf_packJ (o : BitVec 21) (rd : Reg) (op : BitVec 7) :
    opcodeOf (packJ o rd op) = op := by
  ext i hi; simp only [opcodeOf, packJ, putAt]
  interval_cases i <;> simp

@[simp] theorem rdOf_packJ (o : BitVec 21) (rd : Reg) (op : BitVec 7) :
    rdOf (packJ o rd op) = rd := by
  ext i hi; simp only [rdOf, packJ, putAt]
  interval_cases i <;> simp

theorem packJ_piece31 (o : BitVec 21) (rd : Reg) (op : BitVec 7) :
    (packJ o rd op).extractLsb' 31 1 = o.extractLsb' 20 1 := by
  ext i hi; simp only [packJ, putAt]
  interval_cases i; simp

theorem packJ_piece12 (o : BitVec 21) (rd : Reg) (op : BitVec 7) :
    (packJ o rd op).extractLsb' 12 8 = o.extractLsb' 12 8 := by
  ext i hi; simp only [packJ, putAt]
  interval_cases i <;> simp

theorem packJ_piece20 (o : BitVec 21) (rd : Reg) (op : BitVec 7) :
    (packJ o rd op).extractLsb' 20 1 = o.extractLsb' 11 1 := by
  ext i hi; simp only [packJ, putAt]
  interval_cases i; simp

theorem packJ_piece21 (o : BitVec 21) (rd : Reg) (op : BitVec 7) :
    (packJ o rd op).extractLsb' 21 10 = o.extractLsb' 1 10 := by
  ext i hi; simp only [packJ, putAt]
  interval_cases i <;> simp

/-- Bit 0 of the offset is not stored (30_encoding.md R66): it comes back 0. -/
theorem immJOf_packJ (o : BitVec 21) (rd : Reg) (op : BitVec 7) :
    immJOf (packJ o rd op) = putAt 21 1 (o.extractLsb' 1 20) := by
  simp only [immJOf, packJ_piece31, packJ_piece12, packJ_piece20, packJ_piece21]
  ext i hi; simp only [putAt]
  interval_cases i <;> simp

/-- An even offset comes back whole. -/
theorem immJOf_packJ_even (o : BitVec 21) (rd : Reg) (op : BitVec 7) (even : o.getLsbD 0 = false) :
    immJOf (packJ o rd op) = o := by
  rw [immJOf_packJ]
  ext i hi; simp only [putAt]
  interval_cases i
  · simpa using even.symm
  all_goals simp

/-! ## The fields of a word pack to it again -/

theorem packR_fields (w : Word) :
    packR (funct7Of w) (rs2Of w) (rs1Of w) (funct3Of w) (rdOf w) (opcodeOf w) = w := by
  ext i hi; simp only [funct3Of, funct7Of, opcodeOf, rdOf, rs1Of, rs2Of, packR, putAt]
  interval_cases i <;> simp

theorem packI_fields (w : Word) :
    packI (immIOf w) (rs1Of w) (funct3Of w) (rdOf w) (opcodeOf w) = w := by
  ext i hi; simp only [funct3Of, immIOf, opcodeOf, rdOf, rs1Of, packI, putAt]
  interval_cases i <;> simp

theorem immSOf_piece5 (w : Word) : (immSOf w).extractLsb' 5 7 = w.extractLsb' 25 7 := by
  ext i hi; simp only [immSOf, putAt]
  interval_cases i <;> simp

theorem immSOf_piece0 (w : Word) : (immSOf w).extractLsb' 0 5 = w.extractLsb' 7 5 := by
  ext i hi; simp only [immSOf, putAt]
  interval_cases i <;> simp

theorem packS_fields (w : Word) :
    packS (immSOf w) (rs2Of w) (rs1Of w) (funct3Of w) (opcodeOf w) = w := by
  simp only [packS, immSOf_piece5, immSOf_piece0, funct3Of, opcodeOf, rs1Of, rs2Of]
  ext i hi; simp only [putAt]
  interval_cases i <;> simp

theorem immBOf_piece12 (w : Word) : (immBOf w).extractLsb' 12 1 = w.extractLsb' 31 1 := by
  ext i hi; simp only [immBOf, putAt]
  interval_cases i; simp

theorem immBOf_piece11 (w : Word) : (immBOf w).extractLsb' 11 1 = w.extractLsb' 7 1 := by
  ext i hi; simp only [immBOf, putAt]
  interval_cases i; simp

theorem immBOf_piece5 (w : Word) : (immBOf w).extractLsb' 5 6 = w.extractLsb' 25 6 := by
  ext i hi; simp only [immBOf, putAt]
  interval_cases i <;> simp

theorem immBOf_piece1 (w : Word) : (immBOf w).extractLsb' 1 4 = w.extractLsb' 8 4 := by
  ext i hi; simp only [immBOf, putAt]
  interval_cases i <;> simp

theorem packB_fields (w : Word) :
    packB (immBOf w) (rs2Of w) (rs1Of w) (funct3Of w) (opcodeOf w) = w := by
  simp only [packB, immBOf_piece12, immBOf_piece11, immBOf_piece5, immBOf_piece1, funct3Of, opcodeOf, rs1Of, rs2Of]
  ext i hi; simp only [putAt]
  interval_cases i <;> simp

theorem packU_fields (w : Word) :
    packU (immUOf w) (rdOf w) (opcodeOf w) = w := by
  ext i hi; simp only [immUOf, opcodeOf, rdOf, packU, putAt]
  interval_cases i <;> simp

theorem immJOf_piece20 (w : Word) : (immJOf w).extractLsb' 20 1 = w.extractLsb' 31 1 := by
  ext i hi; simp only [immJOf, putAt]
  interval_cases i; simp

theorem immJOf_piece12 (w : Word) : (immJOf w).extractLsb' 12 8 = w.extractLsb' 12 8 := by
  ext i hi; simp only [immJOf, putAt]
  interval_cases i <;> simp

theorem immJOf_piece11 (w : Word) : (immJOf w).extractLsb' 11 1 = w.extractLsb' 20 1 := by
  ext i hi; simp only [immJOf, putAt]
  interval_cases i; simp

theorem immJOf_piece1 (w : Word) : (immJOf w).extractLsb' 1 10 = w.extractLsb' 21 10 := by
  ext i hi; simp only [immJOf, putAt]
  interval_cases i <;> simp

theorem packJ_fields (w : Word) :
    packJ (immJOf w) (rdOf w) (opcodeOf w) = w := by
  simp only [packJ, immJOf_piece20, immJOf_piece12, immJOf_piece11, immJOf_piece1, opcodeOf, rdOf]
  ext i hi; simp only [putAt]
  interval_cases i <;> simp

theorem funct7Of_bit5 (w : Word) : (funct7Of w).getLsbD 5 = bit30 w := by simp [funct7Of, bit30]

theorem immIOf_bit10 (w : Word) : (immIOf w).getLsbD 10 = bit30 w := by simp [immIOf, bit30]

@[simp] theorem immBOf_even (w : Word) : (immBOf w).getLsbD 0 = false := by simp [immBOf, putAt]

@[simp] theorem immJOf_even (w : Word) : (immJOf w).getLsbD 0 = false := by simp [immJOf, putAt]

/-! ## The masks of the opcode table -/

/-- Mask 0x0000007F keeps the opcode. -/
theorem and_opcode (w : Word) : w &&& 0x0000007F = putAt 32 0 (opcodeOf w) := by
  ext i hi; simp only [opcodeOf, putAt]
  interval_cases i <;> simp

/-- Mask 0x0000707F keeps the opcode and funct3. -/
theorem and_opcode_funct3 (w : Word) : w &&& 0x0000707F = putAt 32 12 (funct3Of w) ||| putAt 32 0 (opcodeOf w) := by
  ext i hi; simp only [opcodeOf, funct3Of, putAt]
  interval_cases i <;> simp

/-- Mask 0x4000707F keeps the opcode, funct3 and word bit 30. -/
theorem and_opcode_funct3_bit30 (w : Word) :
    w &&& 0x4000707F = putAt 32 30 (BitVec.ofBool (bit30 w)) ||| putAt 32 12 (funct3Of w) ||| putAt 32 0 (opcodeOf w) := by
  ext i hi; simp only [opcodeOf, funct3Of, bit30, putAt]
  interval_cases i <;> simp

end Sys2Proof.Laws
end

