-- ==== Sys2Proof/Laws/Decode.lean ====
section
/-! SUPPORT. Which part of `decode` a word's opcode selects, and what it selects there. The three halting words have
opcodes 0 and 0x73, so a word with any other opcode is none of them. -/

namespace Sys2Proof.Laws

theorem opcodeOf_zero : opcodeOf 0x00000000 = 0x00 := by decide
theorem opcodeOf_ecall : opcodeOf 0x00000073 = 0x73 := by decide
theorem opcodeOf_ebreak : opcodeOf 0x00100073 = 0x73 := by decide

/-- A word whose opcode is neither 0 nor 0x73 is no halting word. -/
theorem not_halting_of_opcode {w : Word} (h0 : opcodeOf w ≠ 0x00) (h73 : opcodeOf w ≠ 0x73) :
    w ≠ 0x00000000 ∧ w ≠ 0x00000073 ∧ w ≠ 0x00100073 := by
  refine ⟨?_, ?_, ?_⟩ <;> rintro rfl
  · exact h0 opcodeOf_zero
  · exact h73 opcodeOf_ecall
  · exact h73 opcodeOf_ebreak

theorem isHaltingWord_iff (w : Word) :
    isHaltingWord w = true ↔ w = 0x00000000 ∨ w = 0x00000073 ∨ w = 0x00100073 := by
  simp [isHaltingWord, or_assoc]

theorem decode_regReg {w : Word} (h : opcodeOf w = 0x33) : decode w = decodeRegReg w := by
  obtain ⟨a, b, c⟩ := not_halting_of_opcode (w := w) (by rw [h]; decide) (by rw [h]; decide)
  unfold decode; rw [if_neg a, if_neg b, if_neg c]; simp [h]

theorem decode_regImm {w : Word} (h : opcodeOf w = 0x13) : decode w = decodeRegImm w := by
  obtain ⟨a, b, c⟩ := not_halting_of_opcode (w := w) (by rw [h]; decide) (by rw [h]; decide)
  unfold decode; rw [if_neg a, if_neg b, if_neg c]; simp [h]

theorem decode_load {w : Word} (h : opcodeOf w = 0x03) :
    decode w = .lw (rdOf w) (rs1Of w) (immIOf w) (funct3Of w) := by
  obtain ⟨a, b, c⟩ := not_halting_of_opcode (w := w) (by rw [h]; decide) (by rw [h]; decide)
  unfold decode; rw [if_neg a, if_neg b, if_neg c]; simp [h]

theorem decode_store {w : Word} (h : opcodeOf w = 0x23) :
    decode w = .sw (rs2Of w) (rs1Of w) (immSOf w) (funct3Of w) := by
  obtain ⟨a, b, c⟩ := not_halting_of_opcode (w := w) (by rw [h]; decide) (by rw [h]; decide)
  unfold decode; rw [if_neg a, if_neg b, if_neg c]; simp [h]

theorem decode_branch {w : Word} (h : opcodeOf w = 0x63) : decode w = decodeBranch w := by
  obtain ⟨a, b, c⟩ := not_halting_of_opcode (w := w) (by rw [h]; decide) (by rw [h]; decide)
  unfold decode; rw [if_neg a, if_neg b, if_neg c]; simp [h]

theorem decode_lui {w : Word} (h : opcodeOf w = 0x37) : decode w = .lui (rdOf w) (immUOf w) := by
  obtain ⟨a, b, c⟩ := not_halting_of_opcode (w := w) (by rw [h]; decide) (by rw [h]; decide)
  unfold decode; rw [if_neg a, if_neg b, if_neg c]; simp [h]

theorem decode_jal {w : Word} (h : opcodeOf w = 0x6F) : decode w = .jal (rdOf w) (immJOf w) := by
  obtain ⟨a, b, c⟩ := not_halting_of_opcode (w := w) (by rw [h]; decide) (by rw [h]; decide)
  unfold decode; rw [if_neg a, if_neg b, if_neg c]; simp [h]

/-- A 3-bit field has one of eight values. -/
theorem funct3_cases (f : BitVec 3) :
    f = 0b000 ∨ f = 0b001 ∨ f = 0b010 ∨ f = 0b011 ∨ f = 0b100 ∨ f = 0b101 ∨ f = 0b110 ∨ f = 0b111 := by
  revert f; decide

end Sys2Proof.Laws
end

