-- ==== Sys2Proof/Laws/State.lean ====
section
/-! SUPPORT. One lemma per field per update of State, each true by unfolding one update, so that no later proof unfolds a
record update. -/

namespace Sys2Proof.Machine

/-! ## setPc -/

@[simp] theorem State.setPc_regs (s : State) (t : Word) : (s.setPc t).regs = s.regs := rfl
@[simp] theorem State.setPc_pc (s : State) (t : Word) : (s.setPc t).pc = alignPc t := rfl
@[simp] theorem State.setPc_halted (s : State) (t : Word) : (s.setPc t).halted = s.halted := rfl
@[simp] theorem State.setPc_cycle (s : State) (t : Word) : (s.setPc t).cycle = s.cycle := rfl
@[simp] theorem State.setPc_dmem (s : State) (t : Word) : (s.setPc t).dmem = s.dmem := rfl
@[simp] theorem State.setPc_imem (s : State) (t : Word) : (s.setPc t).imem = s.imem := rfl

/-! ## tick -/

@[simp] theorem State.tick_regs (s : State) : s.tick.regs = s.regs := rfl
@[simp] theorem State.tick_pc (s : State) : s.tick.pc = s.pc := rfl
@[simp] theorem State.tick_halted (s : State) : s.tick.halted = s.halted := rfl
@[simp] theorem State.tick_cycle (s : State) : s.tick.cycle = s.cycle + 1 := rfl
@[simp] theorem State.tick_dmem (s : State) : s.tick.dmem = s.dmem := rfl
@[simp] theorem State.tick_imem (s : State) : s.tick.imem = s.imem := rfl

/-! ## halt -/

@[simp] theorem State.halt_regs (s : State) : s.halt.regs = s.regs := rfl
@[simp] theorem State.halt_pc (s : State) : s.halt.pc = s.pc := rfl
@[simp] theorem State.halt_halted (s : State) : s.halt.halted = true := rfl
@[simp] theorem State.halt_cycle (s : State) : s.halt.cycle = s.cycle := rfl
@[simp] theorem State.halt_dmem (s : State) : s.halt.dmem = s.dmem := rfl
@[simp] theorem State.halt_imem (s : State) : s.halt.imem = s.imem := rfl

/-! ## setCell -/

@[simp] theorem State.setCell_regs (s : State) (k : DataCell) (v : Word) : (s.setCell k v).regs = s.regs := rfl
@[simp] theorem State.setCell_pc (s : State) (k : DataCell) (v : Word) : (s.setCell k v).pc = s.pc := rfl
@[simp] theorem State.setCell_halted (s : State) (k : DataCell) (v : Word) : (s.setCell k v).halted = s.halted := rfl
@[simp] theorem State.setCell_cycle (s : State) (k : DataCell) (v : Word) : (s.setCell k v).cycle = s.cycle := rfl
@[simp] theorem State.setCell_dmem (s : State) (k : DataCell) (v : Word) : (s.setCell k v).dmem = s.dmem.set k.toNat v := rfl
@[simp] theorem State.setCell_imem (s : State) (k : DataCell) (v : Word) : (s.setCell k v).imem = s.imem := rfl

/-! ## memWrite -/

@[simp] theorem State.memWrite_regs (s : State) (a v : Word) : (s.memWrite a v).regs = s.regs := rfl
@[simp] theorem State.memWrite_pc (s : State) (a v : Word) : (s.memWrite a v).pc = s.pc := rfl
@[simp] theorem State.memWrite_halted (s : State) (a v : Word) : (s.memWrite a v).halted = s.halted := rfl
@[simp] theorem State.memWrite_cycle (s : State) (a v : Word) : (s.memWrite a v).cycle = s.cycle := rfl
@[simp] theorem State.memWrite_dmem (s : State) (a v : Word) : (s.memWrite a v).dmem = s.dmem.set (dataCell a).toNat v := rfl
@[simp] theorem State.memWrite_imem (s : State) (a v : Word) : (s.memWrite a v).imem = s.imem := rfl

/-! ## retireTo -/

@[simp] theorem State.retireTo_regs (s : State) (t : Word) : (s.retireTo t).regs = s.regs := rfl
@[simp] theorem State.retireTo_pc (s : State) (t : Word) : (s.retireTo t).pc = alignPc t := rfl
@[simp] theorem State.retireTo_halted (s : State) (t : Word) : (s.retireTo t).halted = s.halted := rfl
@[simp] theorem State.retireTo_cycle (s : State) (t : Word) : (s.retireTo t).cycle = s.cycle + 1 := rfl
@[simp] theorem State.retireTo_dmem (s : State) (t : Word) : (s.retireTo t).dmem = s.dmem := rfl
@[simp] theorem State.retireTo_imem (s : State) (t : Word) : (s.retireTo t).imem = s.imem := rfl

/-! ## retire -/

@[simp] theorem State.retire_regs (s : State) : s.retire.regs = s.regs := rfl
@[simp] theorem State.retire_pc (s : State) : s.retire.pc = alignPc (s.pc + 4) := rfl
@[simp] theorem State.retire_halted (s : State) : s.retire.halted = s.halted := rfl
@[simp] theorem State.retire_cycle (s : State) : s.retire.cycle = s.cycle + 1 := rfl
@[simp] theorem State.retire_dmem (s : State) : s.retire.dmem = s.dmem := rfl
@[simp] theorem State.retire_imem (s : State) : s.retire.imem = s.imem := rfl

/-! ## resetCore -/

@[simp] theorem State.resetCore_regs (s : State) : s.resetCore.regs = State.reset.regs := rfl
@[simp] theorem State.resetCore_pc (s : State) : s.resetCore.pc = State.reset.pc := rfl
@[simp] theorem State.resetCore_halted (s : State) : s.resetCore.halted = State.reset.halted := rfl
@[simp] theorem State.resetCore_cycle (s : State) : s.resetCore.cycle = State.reset.cycle := rfl
@[simp] theorem State.resetCore_dmem (s : State) : s.resetCore.dmem = State.reset.dmem := rfl
@[simp] theorem State.resetCore_imem (s : State) : s.resetCore.imem = s.imem := rfl

/-! ## loadWords -/

@[simp] theorem State.loadWords_regs (s : State) (p : List Word) : (s.loadWords p).regs = State.reset.regs := rfl
@[simp] theorem State.loadWords_pc (s : State) (p : List Word) : (s.loadWords p).pc = State.reset.pc := rfl
@[simp] theorem State.loadWords_halted (s : State) (p : List Word) : (s.loadWords p).halted = State.reset.halted := rfl
@[simp] theorem State.loadWords_cycle (s : State) (p : List Word) : (s.loadWords p).cycle = State.reset.cycle := rfl
@[simp] theorem State.loadWords_dmem (s : State) (p : List Word) : (s.loadWords p).dmem = State.reset.dmem := rfl
@[simp] theorem State.loadWords_imem (s : State) (p : List Word) : (s.loadWords p).imem = Vector.ofFn fun k => p.getD k.toNat 0 := rfl

/-! ## dmemEdit -/

@[simp] theorem State.dmemEdit_regs (s : State) (k : DataCell) (v : Word) : (s.dmemEdit k v).regs = s.regs := rfl
@[simp] theorem State.dmemEdit_pc (s : State) (k : DataCell) (v : Word) : (s.dmemEdit k v).pc = s.pc := rfl
@[simp] theorem State.dmemEdit_halted (s : State) (k : DataCell) (v : Word) : (s.dmemEdit k v).halted = s.halted := rfl
@[simp] theorem State.dmemEdit_cycle (s : State) (k : DataCell) (v : Word) : (s.dmemEdit k v).cycle = s.cycle := rfl
@[simp] theorem State.dmemEdit_dmem (s : State) (k : DataCell) (v : Word) : (s.dmemEdit k v).dmem = s.dmem.set k.toNat v := rfl
@[simp] theorem State.dmemEdit_imem (s : State) (k : DataCell) (v : Word) : (s.dmemEdit k v).imem = s.imem := rfl

/-! ## writeReg and regEdit: only `regs` can change -/

@[simp] theorem State.writeReg_pc (s : State) (r : Reg) (v : Word) : (s.writeReg r v).pc = s.pc := by
  unfold State.writeReg; split <;> rfl
@[simp] theorem State.writeReg_halted (s : State) (r : Reg) (v : Word) : (s.writeReg r v).halted = s.halted := by
  unfold State.writeReg; split <;> rfl
@[simp] theorem State.writeReg_cycle (s : State) (r : Reg) (v : Word) : (s.writeReg r v).cycle = s.cycle := by
  unfold State.writeReg; split <;> rfl
@[simp] theorem State.writeReg_dmem (s : State) (r : Reg) (v : Word) : (s.writeReg r v).dmem = s.dmem := by
  unfold State.writeReg; split <;> rfl
@[simp] theorem State.writeReg_imem (s : State) (r : Reg) (v : Word) : (s.writeReg r v).imem = s.imem := by
  unfold State.writeReg; split <;> rfl

@[simp] theorem State.regEdit_pc (s : State) (r : Reg) (v : Nat) : (s.regEdit r v).pc = s.pc :=
  s.writeReg_pc r _
@[simp] theorem State.regEdit_halted (s : State) (r : Reg) (v : Nat) : (s.regEdit r v).halted = s.halted :=
  s.writeReg_halted r _
@[simp] theorem State.regEdit_cycle (s : State) (r : Reg) (v : Nat) : (s.regEdit r v).cycle = s.cycle :=
  s.writeReg_cycle r _
@[simp] theorem State.regEdit_dmem (s : State) (r : Reg) (v : Nat) : (s.regEdit r v).dmem = s.dmem :=
  s.writeReg_dmem r _
@[simp] theorem State.regEdit_imem (s : State) (r : Reg) (v : Nat) : (s.regEdit r v).imem = s.imem :=
  s.writeReg_imem r _

/-! ## The reset state -/

@[simp] theorem State.reset_pc : State.reset.pc = 0 := rfl
@[simp] theorem State.reset_halted : State.reset.halted = false := rfl
@[simp] theorem State.reset_cycle : State.reset.cycle = 0 := rfl
@[simp] theorem State.reset_imem : State.reset.imem = Vector.replicate 256 0 := rfl

/-! ## x and cell read the fields they read -/

theorem State.x_congr {s t : State} (h : s.regs = t.regs) (r : Reg) : s.x r = t.x r := by simp [State.x, h]

theorem State.cell_congr {s t : State} (h : s.dmem = t.dmem) (k : DataCell) : s.cell k = t.cell k := by
  simp [State.cell, h]

end Sys2Proof.Machine
end

