-- ==== Sys2Proof/Laws/Ops.lean ====
section
/-! SUPPORT. What the shared operations do, said once: registers, data memory, the program counter, the fetch, and the
byte view. -/

namespace Sys2Proof.Machine

/-! ## General registers (10_state.md R11) -/

@[simp] theorem State.x_zero (s : State) : s.x 0#5 = 0#32 := rfl

@[simp] theorem State.writeReg_zero (s : State) (v : Word) : s.writeReg 0#5 v = s := rfl

/-- A write to register 0 is discarded and every other write stores its cell. -/
theorem State.regs_writeReg (s : State) (r : Reg) (v : Word) :
    (s.writeReg r v).regs = if r = 0 then s.regs else s.regs.set r.toNat v := by
  unfold State.writeReg; split <;> rfl

/-- Reading after a write: the written register, if it is not register 0, and every other as before. -/
theorem State.x_writeReg (s : State) (r q : Reg) (v : Word) :
    (s.writeReg r v).x q = if q = r ∧ r ≠ 0 then v else s.x q := by
  by_cases hr : r = 0
  · subst hr; rw [if_neg fun h => h.2 rfl]; rfl
  · rw [State.x, State.x, State.regs_writeReg, if_neg hr]
    by_cases hq : q = 0
    · subst hq; rw [if_pos rfl, if_neg fun h => hr h.1.symm, if_pos rfl]
    · rw [if_neg hq, if_neg hq, Vector.getElem_set]
      by_cases h : r.toNat = q.toNat
      · rw [if_pos h, if_pos ⟨(BitVec.eq_of_toNat_eq h).symm, hr⟩]
      · rw [if_neg h, if_neg fun e => h (by rw [e.1])]

/-- No register write touches the stored cell of register 0. -/
theorem State.writeReg_cell0 (s : State) (r : Reg) (v : Word) : (s.writeReg r v).regs[0] = s.regs[0] := by
  rw [State.regs_writeReg]
  split
  · simp
  · rename_i h
    have : r.toNat ≠ 0 := fun e => h (BitVec.eq_of_toNat_eq (by simpa using e))
    simp [this]

/-! ## Data memory (20_memory.md R31, R32) -/

/-- Reading a cell after a cell was set. -/
theorem State.cell_setCell (s : State) (k j : DataCell) (v : Word) :
    (s.setCell k v).cell j = if j = k then v else s.cell j := by
  simp only [State.cell, State.setCell, Vector.getElem_set]
  by_cases h : k.toNat = j.toNat
  · simp [h, BitVec.eq_of_toNat_eq h.symm]
  · have : j ≠ k := fun e => h (by rw [e])
    simp [h, this]

/-- Reading a data address after a store: the stored Word for the same cell, what it was for any other. -/
theorem State.memRead_memWrite (s : State) (a b v : Word) :
    (s.memWrite a v).memRead b = if dataCell b = dataCell a then v else s.memRead b :=
  s.cell_setCell (dataCell a) (dataCell b) v

/-- Storing twice to one cell is storing the second Word. -/
theorem State.memWrite_memWrite (s : State) (a v v' : Word) : (s.memWrite a v).memWrite a v' = s.memWrite a v' := by
  simp [State.memWrite, State.setCell]

/-- A byte outside the stored cell is as it was. -/
theorem State.dataByte_memWrite_ne (s : State) (a b v : Word) (h : dataCell b ≠ dataCell a) :
    (s.memWrite a v).dataByte b = s.dataByte b := by
  simp [State.dataByte, State.memRead_memWrite, h]

/-! ## What leaves registers and cells alone -/

@[simp] theorem State.x_setPc (s : State) (t : Word) (r : Reg) : (s.setPc t).x r = s.x r := rfl
@[simp] theorem State.x_tick (s : State) (r : Reg) : s.tick.x r = s.x r := rfl
@[simp] theorem State.x_halt (s : State) (r : Reg) : s.halt.x r = s.x r := rfl
@[simp] theorem State.x_retireTo (s : State) (t : Word) (r : Reg) : (s.retireTo t).x r = s.x r := rfl
@[simp] theorem State.x_retire (s : State) (r : Reg) : s.retire.x r = s.x r := rfl
@[simp] theorem State.x_memWrite (s : State) (a v : Word) (r : Reg) : (s.memWrite a v).x r = s.x r := rfl
@[simp] theorem State.cell_halt (s : State) (k : DataCell) : s.halt.cell k = s.cell k := rfl
@[simp] theorem State.cell_retireTo (s : State) (t : Word) (k : DataCell) : (s.retireTo t).cell k = s.cell k := rfl
@[simp] theorem State.cell_retire (s : State) (k : DataCell) : s.retire.cell k = s.cell k := rfl
@[simp] theorem State.cell_writeReg (s : State) (r : Reg) (v : Word) (k : DataCell) :
    (s.writeReg r v).cell k = s.cell k := State.cell_congr (by simp) k
@[simp] theorem State.dataByte_retire (s : State) (a : Word) : s.retire.dataByte a = s.dataByte a := rfl
@[simp] theorem State.dataByte_retireTo (s : State) (t a : Word) : (s.retireTo t).dataByte a = s.dataByte a := rfl
@[simp] theorem State.dataByte_halt (s : State) (a : Word) : s.halt.dataByte a = s.dataByte a := rfl
@[simp] theorem State.dataByte_writeReg (s : State) (r : Reg) (v a : Word) :
    (s.writeReg r v).dataByte a = s.dataByte a := by simp [State.dataByte, State.memRead]

theorem State.memRead_congr {s t : State} (h : s.dmem = t.dmem) (a : Word) : s.memRead a = t.memRead a :=
  State.cell_congr h _

/-! ## The program counter (10_state.md R15) -/

/-- The low two bits of an assigned pc are 0. -/
theorem alignPc_low (t : Word) : (alignPc t).extractLsb' 0 2 = 0 := by
  ext i hi; simp only [alignPc]
  interval_cases i <;> simp

/-- A value whose low two bits are 0 is assigned as it is. -/
theorem alignPc_of_low {t : Word} (h : t.extractLsb' 0 2 = 0) : alignPc t = t := by
  have h0 : t.getLsbD 0 = false := by simpa using congrArg (·.getLsbD 0) h
  have h1 : t.getLsbD 1 = false := by simpa using congrArg (·.getLsbD 1) h
  ext i hi; simp only [alignPc]
  interval_cases i
  · simpa using h0.symm
  · simpa using h1.symm
  all_goals simp

/-- Four past a multiple of 4 is a multiple of 4. -/
theorem low_add_four {t : Word} (h : t.extractLsb' 0 2 = 0) : (t + 4).extractLsb' 0 2 = 0 := by
  have e : t.toNat % 4 = 0 := by simpa [BitVec.extractLsb'_toNat] using congrArg BitVec.toNat h
  apply BitVec.eq_of_toNat_eq
  simp [BitVec.extractLsb'_toNat, BitVec.toNat_add]; omega

/-! ## The fetch (20_memory.md R36) -/

/-- The fetch reads the pc and instruction memory, nothing else. -/
theorem State.fetch_congr {s t : State} (hp : s.pc = t.pc) (hi : s.imem = t.imem) : s.fetch = t.fetch := by
  simp [State.fetch, hp, hi]

@[simp] theorem State.fetch_memWrite (s : State) (a v : Word) : (s.memWrite a v).fetch = s.fetch := rfl

/-- A placed word is what the next step fetches, on a core that is not halted. -/
theorem State.fetch_placeFetchWord (s : State) (w : Word) :
    (s.placeFetchWord w).fetch = some w ∧ (s.placeFetchWord w).halted = false := by
  by_cases h : (fetchIndex s.pc).toNat < 256
  · simp [State.placeFetchWord, State.fetch, h]
  · have z : (fetchIndex 0).toNat = 0 := by decide
    simp only [State.placeFetchWord, State.fetch, h, dite_false, z, and_true]; simp

end Sys2Proof.Machine
end

