-- ==== Sys2Proof/Laws/PerInstr.lean ====
section
/-! SUPPORT. Facts about every instruction as syntax, one lemma per constructor. Family `OpcodeRow`: a well-formed
instruction's word meets the mask and match of the row of spec/opcode_table.json that its mnemonic names. -/

namespace Sys2Proof.Laws.OpcodeRow

/-- The instruction's word has the bits that a row of its own mnemonic fixes. -/
def Statement (i : Instr) : Prop :=
  i.WellFormed → ∃ r ∈ opcodeTable, r.mnemonic = i.mnemonic ∧ encode i &&& r.mask = r.pattern

/-- A row whose mask is 0x0000707F. -/
theorem of_funct3 {i : Instr} (r : TableRow) (mem : r ∈ opcodeTable) (name : r.mnemonic = i.mnemonic)
    (mask : r.mask = 0x0000707F)
    (fields : putAt 32 12 (funct3Of (encode i)) ||| putAt 32 0 (opcodeOf (encode i)) = r.pattern) : Statement i :=
  fun _ => ⟨r, mem, name, by rw [mask, and_opcode_funct3, fields]⟩

/-- A row whose mask is 0x4000707F. -/
theorem of_funct3_bit30 {i : Instr} (r : TableRow) (mem : r ∈ opcodeTable) (name : r.mnemonic = i.mnemonic)
    (mask : r.mask = 0x4000707F)
    (fields : i.WellFormed → putAt 32 30 (BitVec.ofBool (bit30 (encode i))) ||| putAt 32 12 (funct3Of (encode i)) |||
      putAt 32 0 (opcodeOf (encode i)) = r.pattern) : Statement i :=
  fun wf => ⟨r, mem, name, by rw [mask, and_opcode_funct3_bit30, fields wf]⟩

/-- A row whose mask is 0x0000007F. -/
theorem of_opcode {i : Instr} (r : TableRow) (mem : r ∈ opcodeTable) (name : r.mnemonic = i.mnemonic)
    (mask : r.mask = 0x0000007F) (fields : putAt 32 0 (opcodeOf (encode i)) = r.pattern) : Statement i :=
  fun _ => ⟨r, mem, name, by rw [mask, and_opcode, fields]⟩

theorem haltZero : Statement .haltZero :=
  fun _ => ⟨⟨"halt.zero", 0xFFFFFFFF, 0x00000000⟩, by decide, rfl, by decide⟩

theorem haltEcall : Statement .haltEcall :=
  fun _ => ⟨⟨"halt.ecall", 0xFFFFFFFF, 0x00000073⟩, by decide, rfl, by decide⟩

theorem haltEbreak : Statement .haltEbreak :=
  fun _ => ⟨⟨"halt.ebreak", 0xFFFFFFFF, 0x00100073⟩, by decide, rfl, by decide⟩

theorem add (rd rs1 rs2 : Reg) (funct7 : BitVec 7) : Statement (.add rd rs1 rs2 funct7) :=
  of_funct3_bit30 ⟨"add", 0x4000707F, 0x00000033⟩ (by decide) rfl rfl fun wf => by
    simp [Instr.WellFormed, Instr.wellFormed] at wf; simp [encode, wf, putAt]

theorem sub (rd rs1 rs2 : Reg) (funct7 : BitVec 7) : Statement (.sub rd rs1 rs2 funct7) :=
  of_funct3_bit30 ⟨"sub", 0x4000707F, 0x40000033⟩ (by decide) rfl rfl fun wf => by
    simp [Instr.WellFormed, Instr.wellFormed] at wf; simp [encode, wf, putAt]

theorem sll (rd rs1 rs2 : Reg) (funct7 : BitVec 7) : Statement (.sll rd rs1 rs2 funct7) :=
  of_funct3 ⟨"sll", 0x0000707F, 0x00001033⟩ (by decide) rfl rfl (by simp [encode, putAt])

theorem slt (rd rs1 rs2 : Reg) (funct7 : BitVec 7) : Statement (.slt rd rs1 rs2 funct7) :=
  of_funct3 ⟨"slt", 0x0000707F, 0x00002033⟩ (by decide) rfl rfl (by simp [encode, putAt])

theorem sltu (rd rs1 rs2 : Reg) (funct7 : BitVec 7) : Statement (.sltu rd rs1 rs2 funct7) :=
  of_funct3 ⟨"sltu", 0x0000707F, 0x00003033⟩ (by decide) rfl rfl (by simp [encode, putAt])

theorem xor (rd rs1 rs2 : Reg) (funct7 : BitVec 7) : Statement (.xor rd rs1 rs2 funct7) :=
  of_funct3 ⟨"xor", 0x0000707F, 0x00004033⟩ (by decide) rfl rfl (by simp [encode, putAt])

theorem srl (rd rs1 rs2 : Reg) (funct7 : BitVec 7) : Statement (.srl rd rs1 rs2 funct7) :=
  of_funct3_bit30 ⟨"srl", 0x4000707F, 0x00005033⟩ (by decide) rfl rfl fun wf => by
    simp [Instr.WellFormed, Instr.wellFormed] at wf; simp [encode, wf, putAt]

theorem sra (rd rs1 rs2 : Reg) (funct7 : BitVec 7) : Statement (.sra rd rs1 rs2 funct7) :=
  of_funct3_bit30 ⟨"sra", 0x4000707F, 0x40005033⟩ (by decide) rfl rfl fun wf => by
    simp [Instr.WellFormed, Instr.wellFormed] at wf; simp [encode, wf, putAt]

theorem or (rd rs1 rs2 : Reg) (funct7 : BitVec 7) : Statement (.or rd rs1 rs2 funct7) :=
  of_funct3 ⟨"or", 0x0000707F, 0x00006033⟩ (by decide) rfl rfl (by simp [encode, putAt])

theorem and (rd rs1 rs2 : Reg) (funct7 : BitVec 7) : Statement (.and rd rs1 rs2 funct7) :=
  of_funct3 ⟨"and", 0x0000707F, 0x00007033⟩ (by decide) rfl rfl (by simp [encode, putAt])

theorem addi (rd rs1 : Reg) (imm : BitVec 12) : Statement (.addi rd rs1 imm) :=
  of_funct3 ⟨"addi", 0x0000707F, 0x00000013⟩ (by decide) rfl rfl (by simp [encode, putAt])

theorem slli (rd rs1 : Reg) (imm : BitVec 12) : Statement (.slli rd rs1 imm) :=
  of_funct3 ⟨"slli", 0x0000707F, 0x00001013⟩ (by decide) rfl rfl (by simp [encode, putAt])

theorem slti (rd rs1 : Reg) (imm : BitVec 12) : Statement (.slti rd rs1 imm) :=
  of_funct3 ⟨"slti", 0x0000707F, 0x00002013⟩ (by decide) rfl rfl (by simp [encode, putAt])

theorem sltiu (rd rs1 : Reg) (imm : BitVec 12) : Statement (.sltiu rd rs1 imm) :=
  of_funct3 ⟨"sltiu", 0x0000707F, 0x00003013⟩ (by decide) rfl rfl (by simp [encode, putAt])

theorem xori (rd rs1 : Reg) (imm : BitVec 12) : Statement (.xori rd rs1 imm) :=
  of_funct3 ⟨"xori", 0x0000707F, 0x00004013⟩ (by decide) rfl rfl (by simp [encode, putAt])

theorem srli (rd rs1 : Reg) (imm : BitVec 12) : Statement (.srli rd rs1 imm) :=
  of_funct3_bit30 ⟨"srli", 0x4000707F, 0x00005013⟩ (by decide) rfl rfl fun wf => by
    simp [Instr.WellFormed, Instr.wellFormed] at wf; simp [encode, wf, putAt]

theorem srai (rd rs1 : Reg) (imm : BitVec 12) : Statement (.srai rd rs1 imm) :=
  of_funct3_bit30 ⟨"srai", 0x4000707F, 0x40005013⟩ (by decide) rfl rfl fun wf => by
    simp [Instr.WellFormed, Instr.wellFormed] at wf; simp [encode, wf, putAt]

theorem ori (rd rs1 : Reg) (imm : BitVec 12) : Statement (.ori rd rs1 imm) :=
  of_funct3 ⟨"ori", 0x0000707F, 0x00006013⟩ (by decide) rfl rfl (by simp [encode, putAt])

theorem andi (rd rs1 : Reg) (imm : BitVec 12) : Statement (.andi rd rs1 imm) :=
  of_funct3 ⟨"andi", 0x0000707F, 0x00007013⟩ (by decide) rfl rfl (by simp [encode, putAt])

theorem lw (rd rs1 : Reg) (imm : BitVec 12) (funct3 : BitVec 3) : Statement (.lw rd rs1 imm funct3) :=
  of_opcode ⟨"lw", 0x0000007F, 0x00000003⟩ (by decide) rfl rfl (by simp [encode, putAt])

theorem sw (rs2 rs1 : Reg) (imm : BitVec 12) (funct3 : BitVec 3) : Statement (.sw rs2 rs1 imm funct3) :=
  of_opcode ⟨"sw", 0x0000007F, 0x00000023⟩ (by decide) rfl rfl (by simp [encode, putAt])

theorem beq (rs1 rs2 : Reg) (offset : BitVec 13) : Statement (.beq rs1 rs2 offset) :=
  of_funct3 ⟨"beq", 0x0000707F, 0x00000063⟩ (by decide) rfl rfl (by simp [encode, putAt])

theorem bne (rs1 rs2 : Reg) (offset : BitVec 13) : Statement (.bne rs1 rs2 offset) :=
  of_funct3 ⟨"bne", 0x0000707F, 0x00001063⟩ (by decide) rfl rfl (by simp [encode, putAt])

theorem blt (rs1 rs2 : Reg) (offset : BitVec 13) : Statement (.blt rs1 rs2 offset) :=
  of_funct3 ⟨"blt", 0x0000707F, 0x00004063⟩ (by decide) rfl rfl (by simp [encode, putAt])

theorem bge (rs1 rs2 : Reg) (offset : BitVec 13) : Statement (.bge rs1 rs2 offset) :=
  of_funct3 ⟨"bge", 0x0000707F, 0x00005063⟩ (by decide) rfl rfl (by simp [encode, putAt])

theorem bltu (rs1 rs2 : Reg) (offset : BitVec 13) : Statement (.bltu rs1 rs2 offset) :=
  of_funct3 ⟨"bltu", 0x0000707F, 0x00006063⟩ (by decide) rfl rfl (by simp [encode, putAt])

theorem bgeu (rs1 rs2 : Reg) (offset : BitVec 13) : Statement (.bgeu rs1 rs2 offset) :=
  of_funct3 ⟨"bgeu", 0x0000707F, 0x00007063⟩ (by decide) rfl rfl (by simp [encode, putAt])

theorem branchFunct3_010 (rs1 rs2 : Reg) (offset : BitVec 13) : Statement (.branchFunct3_010 rs1 rs2 offset) :=
  of_funct3 ⟨"branch.funct3_010", 0x0000707F, 0x00002063⟩ (by decide) rfl rfl (by simp [encode, putAt])

theorem branchFunct3_011 (rs1 rs2 : Reg) (offset : BitVec 13) : Statement (.branchFunct3_011 rs1 rs2 offset) :=
  of_funct3 ⟨"branch.funct3_011", 0x0000707F, 0x00003063⟩ (by decide) rfl rfl (by simp [encode, putAt])

theorem lui (rd : Reg) (imm : BitVec 20) : Statement (.lui rd imm) :=
  of_opcode ⟨"lui", 0x0000007F, 0x00000037⟩ (by decide) rfl rfl (by simp [encode, putAt])

theorem jal (rd : Reg) (offset : BitVec 21) : Statement (.jal rd offset) :=
  of_opcode ⟨"jal", 0x0000007F, 0x0000006F⟩ (by decide) rfl rfl (by simp [encode, putAt])

theorem unrecognised (funct7 : BitVec 7) (rs2 rs1 : Reg) (funct3 : BitVec 3) (rd : Reg) (opcode : BitVec 7)
    : Statement (.unrecognised funct7 rs2 rs1 funct3 rd opcode) :=
  fun _ => ⟨⟨"unrecognised", 0x00000000, 0x00000000⟩, by decide, rfl, by simp⟩

end Sys2Proof.Laws.OpcodeRow
end

