-- ==== Sys2Proof/Laws/Step.lean ====
section
/-! SUPPORT. Everything a template, an instruction and a step can do, said once. -/

namespace Sys2Proof.Machine

/-! ## The templates -/

/-- The state a register-writing instruction leaves: one register, the pc and the cycle counter. -/
theorem runRegReg_spec {op : AluOp} {rd rs1 rs2 : Reg} {s t : State} (h : runRegReg op rd rs1 rs2 s = .next t) :
    t = (s.writeReg rd (alu op (s.x rs1) (s.x rs2))).retireTo (s.pc + 4) := by
  cases h; simp [State.retire, State.regOperand]

theorem runRegImm_spec {op : AluOp} {rd rs1 : Reg} {imm : BitVec 12} {s t : State}
    (h : runRegImm op rd rs1 imm s = .next t) :
    t = (s.writeReg rd (alu op (s.x rs1) (sext12 imm))).retireTo (s.pc + 4) := by
  cases h; simp [State.retire, State.regOperand, immOperand]

theorem execLw_spec {rd rs1 : Reg} {imm : BitVec 12} {s t : State} (h : execLw rd rs1 imm s = .next t) :
    t = (s.writeReg rd (s.memRead (s.effectiveAddress rs1 imm))).retireTo (s.pc + 4) := by
  cases h; simp [State.retire]

theorem execSw_spec {rs2 rs1 : Reg} {imm : BitVec 12} {s t : State} (h : execSw rs2 rs1 imm s = .next t) :
    t = (s.memWrite (s.effectiveAddress rs1 imm) (s.x rs2)).retireTo (s.pc + 4) := by
  cases h; simp [State.retire, State.regOperand]

/-- A branch leaves the pc and the cycle counter changed, nothing else. -/
theorem runBranch_spec {cmp : AluOp} {invert : Bool} {rs1 rs2 : Reg} {offset : BitVec 13} {s t : State}
    (h : runBranch cmp invert rs1 rs2 offset s = .next t) :
    t = s.retireTo (if (alu cmp (s.x rs1) (s.x rs2)).getLsbD 0 ^^ invert then s.branchTarget offset else s.pc + 4) := by
  cases h; rfl

theorem runNoOp_spec {s t : State} (h : runNoOp s = .next t) : t = s.retireTo (s.pc + 4) := by
  cases h; rfl

/-! ## Instructions -/

/-- The three shapes an instruction's effect has: halt, write at most one register and go to an address (register 0 for no
register), or store one data cell and go to the next instruction. -/
theorem exec_cases (i : Instr) (s : State) :
    exec i s = .next s.halt ∨
    (∃ rd v target, exec i s = .next ((s.writeReg rd v).retireTo target)) ∨
    (∃ addr v, exec i s = .next ((s.memWrite addr v).retireTo (s.pc + 4))) := by
  have wr (rd : Reg) (v : Word) :
      (.next (s.writeReg rd v).retire : Result) = .next ((s.writeReg rd v).retireTo (s.pc + 4)) := by
    simp [State.retire]
  have br (target : Word) : (.next (s.retireTo target) : Result) = .next ((s.writeReg 0 0).retireTo target) := rfl
  cases i
  case haltZero | haltEcall | haltEbreak => exact .inl rfl
  case sw => exact .inr (.inr ⟨_, _, rfl⟩)
  case beq | bne | blt | bge | bltu | bgeu => exact .inr (.inl ⟨0, 0, _, br _⟩)
  case branchFunct3_010 | branchFunct3_011 | lui | jal | unrecognised => exact .inr (.inl ⟨0, 0, _, br _⟩)
  all_goals exact .inr (.inl ⟨_, _, _, wr _ _⟩)

/-! ## The step -/

theorem step_of_halted {s : State} (h : s.halted = true) : step s = .next s := by simp [step, h]

theorem step_of_fetch_none {s : State} (h : s.halted = false) (f : s.fetch = none) : step s = .next s.halt := by
  simp [step, h, f]

theorem step_of_fetch_some {s : State} {w : Word} (h : s.halted = false) (f : s.fetch = some w) :
    step s = exec (decode w) s := by
  simp [step, h, f]

/-- An instruction's outcome is never a stop, so `State.stepped` is the state a step reaches. -/
theorem step_stepped (s : State) : step s = .next s.stepped := by
  cases h : s.halted
  · cases f : s.fetch with
    | none => simp [State.stepped, step_of_fetch_none h f]
    | some w =>
      obtain e | ⟨_, _, _, e⟩ | ⟨_, _, e⟩ := exec_cases (decode w) s <;>
        simp [State.stepped, step_of_fetch_some h f, e]
  · simp [State.stepped, step_of_halted h]

/-- Everything a step can do: nothing on a halted core; halt; write at most one register and go to an address; store one
data cell and go to the next instruction. The last two happen only on a core that is not halted. -/
theorem step_cases (s : State) :
    (s.halted = true ∧ step s = .next s) ∨
    (s.halted = false ∧ step s = .next s.halt) ∨
    (s.halted = false ∧ ∃ rd v target, step s = .next ((s.writeReg rd v).retireTo target)) ∨
    (s.halted = false ∧ ∃ addr v, step s = .next ((s.memWrite addr v).retireTo (s.pc + 4))) := by
  cases h : s.halted
  · cases f : s.fetch with
    | none => exact .inr (.inl ⟨rfl, step_of_fetch_none h f⟩)
    | some w =>
      rw [step_of_fetch_some h f]
      obtain e | e | e := exec_cases (decode w) s
      · exact .inr (.inl ⟨rfl, e⟩)
      · exact .inr (.inr (.inl ⟨rfl, e⟩))
      · exact .inr (.inr (.inr ⟨rfl, e⟩))
  · exact .inl ⟨rfl, step_of_halted h⟩

end Sys2Proof.Machine
end

