-- ==== Sys2Proof/Tests/Slice0.lean ====
section
/-! SUPPORT. Tests of one step, of decoding and of the host's texts, with results taken from spec/95_test_vectors.md and from
the examples inside the rules, and a witness for the hypotheses of every statement that has some. -/

open Sys2Proof Sys2Proof.Machine

namespace Sys2Proof.Tests

-- one thread: each kernel evaluation would otherwise take a thread of its own
set_option Elab.async false

/-- A running core with every register and cell 0 and the word `w` at the address `pc`. -/
def start (pc w : Word) : State where
  regs := Vector.replicate 32 0
  pc := pc
  halted := false
  cycle := 0
  dmem := Vector.replicate 32 0
  imem := (Vector.replicate 256 0).setIfInBounds (pc.toNat / 4) w

/-- The word `w` at 0x20 with x1 and x2 set. -/
def with12 (w : Word) (x1 x2 : Nat) : State := ((start 0x20 w).regEdit 1 x1).regEdit 2 x2

/-- What x3 holds after the step of `with12`. -/
def x3After (w : Word) (x1 x2 : Nat) : Word := (with12 w x1 x2).stepped.x 3

/-- The pc, the halted flag, the cycle counter, the registers and data memory of a state. -/
def view (s : State) : Word × Bool × Word × List Word × List Word :=
  (s.pc, s.halted, s.cycle, s.regs.toList, s.dmem.toList)

/-! ## Well-formedness: one ill-formed term for each check -/

theorem wf_add_bit30 : ¬ (Instr.add 3 1 2 0x20).WellFormed := by decide
theorem wf_sub_bit30 : ¬ (Instr.sub 3 1 2 0x00).WellFormed := by decide
theorem wf_srl_bit30 : ¬ (Instr.srl 3 1 2 0x7F).WellFormed := by decide
theorem wf_sra_bit30 : ¬ (Instr.sra 3 1 2 0x5F).WellFormed := by decide
theorem wf_srli_bit30 : ¬ (Instr.srli 3 1 0x404).WellFormed := by decide
theorem wf_srai_bit30 : ¬ (Instr.srai 3 1 0x004).WellFormed := by decide
theorem wf_branch_odd : ∀ i ∈ [Instr.beq 1 2 9, .bne 1 2 1, .blt 1 2 0x1FFF, .bge 1 2 3, .bltu 1 2 5, .bgeu 1 2 7,
    .branchFunct3_010 1 2 9, .branchFunct3_011 1 2 9], ¬ i.WellFormed := by decide
theorem wf_jal_odd : ¬ (Instr.jal 1 9).WellFormed := by decide
theorem wf_unrecognised_own_opcode : ∀ op ∈ Instr.ownOpcodes, ¬ (Instr.unrecognised 0 0 0 0 0 op).WellFormed := by decide
theorem wf_unrecognised_zero : ¬ (Instr.unrecognised 0 0 0 0 0 0).WellFormed := by decide
theorem wf_unrecognised_ecall : ¬ (Instr.unrecognised 0 0 0 0 0 0x73).WellFormed := by decide
theorem wf_unrecognised_ebreak : ¬ (Instr.unrecognised 0 1 0 0 0 0x73).WellFormed := by decide
theorem wf_uret : (Instr.unrecognised 0 2 0 0 0 0x73).WellFormed := by decide

/-! ## Decoding: words written out from the spec's encodings (30_encoding.md R52 to R57, R70; examples of the rules) -/

theorem decode_halting : decode 0x00000000 = .haltZero ∧ decode 0x00000073 = .haltEcall ∧
    decode 0x00100073 = .haltEbreak := by decide
-- funct7 rs2 rs1 funct3 rd opcode, field by field
theorem decode_add : decode 0b0000000_00010_00001_000_00011_0110011 = .add 3 1 2 0 := by decide
theorem decode_sub : decode 0b0100000_00010_00001_000_00011_0110011 = .sub 3 1 2 0x20 := by decide
theorem decode_sll : decode 0b0000000_00010_00001_001_00011_0110011 = .sll 3 1 2 0 := by decide
theorem decode_slt : decode 0b0000000_00010_00001_010_00011_0110011 = .slt 3 1 2 0 := by decide
theorem decode_sltu : decode 0b0000000_00010_00001_011_00011_0110011 = .sltu 3 1 2 0 := by decide
theorem decode_xor : decode 0b0000000_00010_00001_100_00011_0110011 = .xor 3 1 2 0 := by decide
theorem decode_srl : decode 0b0000000_00010_00001_101_00011_0110011 = .srl 3 1 2 0 := by decide
theorem decode_sra : decode 0b0100000_00010_00001_101_00011_0110011 = .sra 3 1 2 0x20 := by decide
theorem decode_or : decode 0b0000000_00010_00001_110_00011_0110011 = .or 3 1 2 0 := by decide
theorem decode_and : decode 0b0000000_00010_00001_111_00011_0110011 = .and 3 1 2 0 := by decide
-- imm rs1 funct3 rd opcode
theorem decode_addi : decode 0b111111111111_00001_000_00011_0010011 = .addi 3 1 0xFFF := by decide
theorem decode_slli : decode 0b000000000100_00001_001_00011_0010011 = .slli 3 1 4 := by decide
theorem decode_slti : decode 0b000000000101_00001_010_00011_0010011 = .slti 3 1 5 := by decide
theorem decode_sltiu : decode 0b111111111111_00001_011_00011_0010011 = .sltiu 3 1 0xFFF := by decide
theorem decode_xori : decode 0b111111111111_00001_100_00011_0010011 = .xori 3 1 0xFFF := by decide
theorem decode_srli : decode 0b000000000100_00001_101_00011_0010011 = .srli 3 1 4 := by decide
theorem decode_srai : decode 0b010000000100_00001_101_00011_0010011 = .srai 3 1 0x404 := by decide
theorem decode_ori : decode 0b000000000101_00001_110_00011_0010011 = .ori 3 1 5 := by decide
theorem decode_andi : decode 0b000000000101_00001_111_00011_0010011 = .andi 3 1 5 := by decide
theorem decode_lw : decode 0b000000001000_00001_010_00010_0000011 = .lw 2 1 8 2 := by decide
-- imm[11:5] rs2 rs1 funct3 imm[4:0] opcode
theorem decode_sw : decode 0b1111111_00010_00001_010_11100_0100011 = .sw 2 1 0xFFC 2 := by decide
-- imm[12] imm[10:5] rs2 rs1 funct3 imm[4:1] imm[11] opcode: offset +8, and -8 for bne
theorem decode_beq : decode 0b0_000000_00010_00001_000_0100_0_1100011 = .beq 1 2 8 := by decide
theorem decode_bne : decode 0b1_111111_00010_00001_001_1100_1_1100011 = .bne 1 2 (-8) := by decide
theorem decode_blt : decode 0b0_000000_00010_00001_100_0100_0_1100011 = .blt 1 2 8 := by decide
theorem decode_bge : decode 0b0_000000_00010_00001_101_0100_0_1100011 = .bge 1 2 8 := by decide
theorem decode_bltu : decode 0b0_000000_00010_00001_110_0100_0_1100011 = .bltu 1 2 8 := by decide
theorem decode_bgeu : decode 0b0_000000_00010_00001_111_0100_0_1100011 = .bgeu 1 2 8 := by decide
theorem decode_branchFunct3 : decode 0b0_000000_00010_00001_010_0100_0_1100011 = .branchFunct3_010 1 2 8 ∧
    decode 0b0_000000_00010_00001_011_0100_0_1100011 = .branchFunct3_011 1 2 8 := by decide
/-- The extreme offsets, and bit 11 alone (95_test_vectors.md 2.1, 2.2). -/
theorem decode_branch_offsets : immBOf 0x80000063 = -4096 ∧ immBOf 0x7E000FE3 = 4094 ∧ immBOf 0x002080E3 = 2048 := by decide
theorem decode_lui : decode 0x123452B7 = .lui 5 0x12345 := by decide
theorem decode_jal : decode 0x008000EF = .jal 1 8 ∧ decode 0xFF9FF0EF = .jal 1 (-8) ∧ decode 0x001000EF = .jal 1 2048 := by
  decide
theorem decode_unrecognised : decode 0x0000000F = .unrecognised 0 0 0 0 0 0x0F ∧
    decode 0x00200073 = .unrecognised 0 2 0 0 0 0x73 := by decide
theorem decode_table_word : decodeTableWord 32 0x022081B3 = some (.add 3 1 2 1) ∧ decodeTableWord 33 0 = none := by decide
/-- Fields overlapped by an immediate are still reported (95_test_vectors.md 2.1). -/
theorem fields_of_store : decodeFields 0xFE20AE23 = ⟨0x23, 28, 2, 1, 2, 0x7F, .S, 0xFFFFFFFC⟩ := by decide
theorem encoders_mask : encodeR 0xA0 34 33 13 35 0xB3 = 0x4020D1B3 ∧ encodeI 8191 1 0 3 0x13 = 0xFFF08193 ∧
    encodeS (-2048) 0 0 2 0x23 = 0x80002023 ∧ encodeB 5 2 1 0 0x63 = 0x00208263 ∧ encodeU (-1) 5 0x37 = 0xFFFFF2B7 ∧
    encodeJ (-1048576) 1 0x6F = 0x800000EF := by decide

/-! ## One step (95_test_vectors.md 2.4 to 2.8) -/

theorem test_add_wraps : x3After 0x002081B3 0x7FFFFFFF 1 = 0x80000000 := by decide +kernel
theorem test_add_same_register : ((start 0x20 0x001080B3).regEdit 1 0x40000001).stepped.x 1 = 0x80000002 := by decide +kernel
theorem test_sub_borrows : x3After 0x402081B3 0 1 = 0xFFFFFFFF := by decide +kernel
theorem test_sub_other_funct7 : x3After 0xFE2081B3 6 7 = 0xFFFFFFFF := by decide +kernel
theorem test_sll_low_five_bits : x3After 0x002091B3 0x12345678 0xFFFFFFE8 = 0x34567800 := by decide +kernel
theorem test_slt_signed : x3After 0x0020A1B3 0x7FFFFFFF 0x80000000 = 0 := by decide +kernel
theorem test_sltu_unsigned : x3After 0x0020B1B3 0xFFFFFFFF 0 = 0 ∧ x3After 0x002031B3 9 7 = 1 := by decide +kernel
theorem test_xor : x3After 0x0020C1B3 0xFF00FF00 0x0FF00FF0 = 0xF0F0F0F0 := by decide +kernel
theorem test_srl_zeros : x3After 0x0020D1B3 0x80000000 31 = 1 := by decide +kernel
theorem test_sra_sign : x3After 0x4020D1B3 0x80000000 4 = 0xF8000000 := by decide +kernel
theorem test_or : x3After 0x0020E1B3 0xFF00FF00 0x0FF00FF0 = 0xFFF0FFF0 := by decide +kernel
theorem test_and : x3After 0x0020F1B3 0xFF00FF00 0x0FF00FF0 = 0x0F000F00 := by decide +kernel
theorem test_mul_word_is_add : x3After 0x022081B3 6 7 = 13 := by decide +kernel
theorem test_rd_zero : (with12 0x00208033 5 6).stepped.regs = (with12 0x00208033 5 6).regs := by decide +kernel

theorem test_addi_bit30 : x3After 0x40008193 1 0 = 0x401 := by decide +kernel
theorem test_addi_negative : x3After 0x80008193 0x80000000 0 = 0x7FFFF800 := by decide +kernel
theorem test_slli_33 : x3After 0x02109193 3 0 = 6 := by decide +kernel
theorem test_slti_negative : x3After 0xFFF0A193 0xFFFFFFFE 0 = 1 := by decide +kernel
theorem test_sltiu_sign_extends : x3After 0xFFF0B193 5 0 = 1 := by decide +kernel
theorem test_xori_not : x3After 0xFFF0C193 0x0F0F0F0F 0 = 0xF0F0F0F0 := by decide +kernel
theorem test_srli : x3After 0x01F0D193 0x80000000 0 = 1 := by decide +kernel
theorem test_srai : x3After 0x41F0D193 0x80000000 0 = 0xFFFFFFFF := by decide +kernel
theorem test_ori : x3After 0x0F00E193 0x12345608 0 = 0x123456F8 := by decide +kernel
theorem test_andi : x3After 0x8000F193 0xFFFFFFFF 0 = 0xFFFFF800 := by decide +kernel

theorem test_lw_wraps_below_zero :
    (((start 0x20 0xFFC0A103).dmemEdit 31 0x31313131).stepped).x 2 = 0x31313131 := by decide +kernel
theorem test_lb_word_loads_whole_cell :
    (((start 0x20 0x00008103).dmemEdit 1 0x80FF7F01).regEdit 1 4).stepped.x 2 = 0x80FF7F01 := by decide +kernel
theorem test_sw_alias_misaligned : (with12 0x0020A023 0x83 0xA5A5A5A5).stepped.cell 0 = 0xA5A5A5A5 := by decide +kernel
theorem test_sb_word_stores_whole_cell :
    ((with12 0x00208023 4 0x123456FF).dmemEdit 1 0xAAAAAAAA).stepped.cell 1 = 0x123456FF := by decide +kernel

theorem test_beq_backward : (with12 0xFE208CE3 3 3).stepped.pc = 0x18 := by decide +kernel
theorem test_beq_rounds_down : (start 0x20 0xFE000FE3).stepped.pc = 0x1C := by decide +kernel
theorem test_bne : (with12 0x00209463 7 7).stepped.pc = 0x24 ∧ (with12 0x00209463 0xFFFFFFFF 1).stepped.pc = 0x28 := by decide +kernel
theorem test_blt : (with12 0x0020C463 0xFFFFFFFF 1).stepped.pc = 0x28 ∧ (with12 0x0020C463 1 0xFFFFFFFF).stepped.pc = 0x24 := by
  decide +kernel
theorem test_bge : (with12 0x0020D463 7 7).stepped.pc = 0x28 ∧ (with12 0x0020D463 0x80000000 0x7FFFFFFF).stepped.pc = 0x24 := by
  decide +kernel
theorem test_bltu : (with12 0x0020E463 0xFFFFFFFF 1).stepped.pc = 0x24 ∧ (with12 0x0020E463 1 0xFFFFFFFF).stepped.pc = 0x28 := by
  decide +kernel
theorem test_bgeu : (with12 0x0020F463 1 0xFFFFFFFF).stepped.pc = 0x24 ∧ (with12 0x0020F463 7 7).stepped.pc = 0x28 := by decide +kernel
/-- A backward branch past 0 leaves a pc near 2^32, and the next step halts there (95_test_vectors.md 2.7). -/
theorem test_branch_past_zero : (start 4 0xFE000CE3).stepped.pc = 0xFFFFFFFC ∧
    view (start 4 0xFE000CE3).stepped.stepped = view (start 4 0xFE000CE3).stepped.halt := by decide +kernel

theorem test_halting_words : [(0x00000000 : Word), 0x00000073, 0x00100073].all (fun w =>
    view (start 0x20 w).stepped == view { start 0x20 w with halted := true }) = true := by decide +kernel
theorem test_lui_is_no_op : view (start 0x20 0x123452B7).stepped = view { start 0x20 0x123452B7 with pc := 0x24, cycle := 1 } := by
  decide +kernel
theorem test_jal_is_no_op : view (start 0x20 0x008000EF).stepped = view { start 0x20 0x008000EF with pc := 0x24, cycle := 1 } := by
  decide +kernel
theorem test_branch_funct3_010 : (start 0x20 0x0020A463).stepped.pc = 0x24 := by decide +kernel
theorem test_branch_funct3_011 : (start 0x20 0x0020B463).stepped.pc = 0x24 := by decide +kernel
theorem test_fence_is_no_op : view (start 0x20 0x0000000F).stepped = view { start 0x20 0x0000000F with pc := 0x24, cycle := 1 } := by
  decide +kernel
theorem test_out_of_range_fetch : view (start 0x400 0x00000013).stepped = view { start 0x400 0x00000013 with halted := true } := by
  decide +kernel

/-! ## The datapath, its result and the flags -/

theorem test_datapath_agrees :
    [(0x4020D1B3 : Word), 0xFFF0B193, 0x0080A103, 0x0020A023, 0xFE209CE3, 0xFFFFFFFF, 0].all (fun w =>
      view (datapathStep (with12 w 0x83 9)) == view (with12 w 0x83 9).stepped) = true := by decide +kernel
/-- An unrecognised word shows the sum of its two registers and a write that is not enabled (95_test_vectors.md 2.8). -/
theorem test_unrecognised_result : (stepResult (with12 0x00208467 0x101 0x102)).map (fun r => (r.wbEnable, r.execute.map (·.res))) =
    some (false, some 0x203) := by decide +kernel
theorem test_flags : (aluCarry .add 0x80000000 0x80000000, aluOverflow .add 0x80000000 0x80000000) = (true, true) ∧
    (aluCarry .sub 0x7FFFFFFF 0xFFFFFFFF, aluOverflow .sub 0x7FFFFFFF 0xFFFFFFFF) = (false, true) := by decide +kernel

/-! ## The assembler and the loader (95_test_vectors.md 2.9, 2.10) -/

theorem test_assemble_shifts : assemble "srai x3,x1,4\nsrli x3,x1,0x404".toList = .ok ⟨[0x4040D193, 0x4040D193], []⟩ := by decide +kernel
theorem test_assemble_memory : assemble "lw x2,8(x1)\nsw x2,-4(x1)".toList = .ok ⟨[0x0080A103, 0xFE20AE23], []⟩ := by decide +kernel
theorem test_assemble_labels :
    assemble "# c\nstart:\n# mid\naddi x1,x0,1\nbeq x0,x0,start".toList = .ok ⟨[0x00100093, 0xFE000EE3], []⟩ := by decide +kernel
/-- The skipped line of R183. -/
theorem test_assemble_skipped_line : assemble "loop:\naddi x1,x1,1\nnop\nbeq x0,x0,loop".toList =
    .ok ⟨[0x00108093, 0xFE000CE3], [⟨"nop".toList, "nop".toList⟩]⟩ := by decide +kernel
theorem test_assemble_missing_operand : assemble "add x1,x2".toList = .error (.invalidRegister "add".toList none) := by decide +kernel
theorem test_assemble_bad_immediate :
    assemble "addi x1,x0,-0x10".toList = .error (.invalidImmediate "addi".toList (some "-0x10".toList)) := by decide +kernel
theorem test_assemble_addressing : assemble "lw x2,(x0)".toList = .error (.unsupportedAddressing "lw".toList) := by decide +kernel
theorem test_assemble_duplicate : assemble "a:\na:".toList = .error (.duplicateLabel "a".toList) := by decide +kernel
theorem test_parse_hex : parseProgram "\n500093\n\n002081b3".toList = .ok ⟨[0x00500093, 0x002081B3], []⟩ := by decide +kernel
theorem test_parse_hex_bad_line :
    parseProgram "00500093\naddi x1,x0,5".toList = .error (.badHexLine "addi x1,x0,5".toList) := by decide +kernel
theorem test_parse_lone_hex_word : parseProgram "add".toList = .ok ⟨[0x00000ADD], []⟩ := by decide +kernel
/-- Scenario 1 of the source. -/
theorem test_scenario_1 : (State.reset.loadText "00500093\n00300113\n002081B3".toList).2.stepped.stepped.stepped.x 3 = 8 := by decide +kernel

/-! ## Witnesses: states and operands that meet the hypotheses of the statements -/

theorem witness_DecodeRecoversEncodedInstruction : (Instr.sra 31 0 31 0x7F).WellFormed ∧ (Instr.srai 3 1 0xFFF).WellFormed ∧
    (Instr.bgeu 0 31 0x1FFE).WellFormed ∧ (Instr.jal 1 0x1FFFFE).WellFormed ∧
    (Instr.unrecognised 0x7F 31 31 7 31 0x7F).WellFormed := by decide +kernel

theorem witness_FieldDecoderInvertsEncoders_R : (0 ≤ (127 : Int) ∧ (127 : Int) < 128) ∧ (0 ≤ (31 : Int) ∧ (31 : Int) < 32) ∧
    (0 ≤ (7 : Int) ∧ (7 : Int) < 8) := by decide +kernel
theorem witness_FieldDecoderInvertsEncoders_I : -2048 ≤ (-2048 : Int) ∧ (-2048 : Int) ≤ 2047 := by decide +kernel
theorem witness_FieldDecoderInvertsEncoders_B : (4094 : Int) % 2 = 0 ∧ -4096 ≤ (4094 : Int) ∧ (4094 : Int) ≤ 4094 := by decide +kernel
theorem witness_FieldDecoderInvertsEncoders_words : (decodeFields 0x0080A103).tag = .I ∧ (decodeFields 0xFE20AE23).tag = .S ∧
    (decodeFields 0x80000063).tag = .B := by decide +kernel

theorem witness_ShiftsUseLowFiveBits : (31#12).toNat < 32 := by decide +kernel
theorem witness_FlagOutputsReportCarryAndOverflow : AluOp.xor ≠ .add ∧ AluOp.xor ≠ .sub := by decide +kernel
theorem witness_OperationCodesAreDistinctAndUnknownReturnZero : ∀ op : AluOp, op.code ≠ 14 := by
  intro op; cases op <;> decide

theorem witness_ControlSignalsFollowClass : (0x7F : BitVec 7).getLsbD 5 = (0x20 : BitVec 7).getLsbD 5 ∧
    (Machine.control 0x63 5 0).2.branchInvert = true ∧ (Machine.control 0x63 2 0).1 = .Unrecognised ∧
    (Machine.control 0x23 0 0).1 = .Store := by decide +kernel

theorem witness_StepRunsDecodedInstruction : (start 0x3FC 0x002081B3).pc.toNat / 4 < 256 ∧
    (start 0x3FC 0x002081B3).halted = false ∧ decode ((start 0x3FC 0x002081B3).imem[255]) = .add 3 1 2 0 := by decide +kernel

theorem witness_HaltingWordStopsTheCore : [(0x00000000 : Word), 0x00000073, 0x00100073].all (fun w =>
    !(start 0 w).halted && (start 0 w).fetch == some w) = true := by decide +kernel

theorem witness_FourEventsEndExecution_out_of_range : (start 1024 0).halted = false ∧
    step (start 1024 0) = .next (start 1024 0).stepped ∧ (start 1024 0).stepped.halted = true := ⟨by decide +kernel, step_stepped _, by decide +kernel⟩
theorem witness_FourEventsEndExecution_runs : (start 1020 0x00000013).halted = false ∧
    step (start 1020 0x00000013) = .next (start 1020 0x00000013).stepped ∧ (start 1020 0x00000013).stepped.halted = false :=
  ⟨by decide +kernel, step_stepped _, by decide +kernel⟩

/-- One taken and one untaken word for each of the six comparisons are in the tests of the branches above. -/
theorem witness_ProgramCounterFollowsStep : step (with12 0x0020D463 7 7) = .next (with12 0x0020D463 7 7).stepped ∧
    (with12 0x0020D463 7 7).fetch = some 0x0020D463 ∧ (with12 0x0020D463 7 7).stepped.halted = false ∧
    opcodeOf 0x0020D463 = 0x63 ∧ funct3Of 0x0020D463 = 5 := ⟨step_stepped _, by decide +kernel, by decide +kernel, by decide +kernel, by decide +kernel⟩
theorem witness_ProgramCounterFollowsStep_halted : step (start 0 0).halt = .next (start 0 0).halt ∧ (start 0 0).halt.halted = true :=
  ⟨rfl, rfl⟩

theorem witness_CycleCountsExecutedInstructions : step (start 0 0x00000013) = .next (start 0 0x00000013).stepped :=
  step_stepped _

theorem witness_StepChangesOnlyTheDestinationRegister : step (start 0 0x00500F93) = .next (start 0 0x00500F93).stepped ∧
    (start 0 0x00500F93).stepped.x 31 ≠ (start 0 0x00500F93).x 31 := ⟨step_stepped _, by decide +kernel⟩

theorem witness_InstructionMemoryChangesOnlyByLoad : ((Event.load [1]).apply (start 0 0)).imem[0] ≠ (start 0 0).imem[0] ∧
    step (start 0 0x0020A023) = .next (start 0 0x0020A023).stepped := ⟨by decide +kernel, step_stepped _⟩

theorem witness_DataAddressesSelectCells : (3#32).toNat < 4 ∧ (start 0 0).x 0 = 0 ∧ (start 0 0).x 31 = 0 := by decide +kernel

theorem witness_OnlyLoadAndStoreReachDataMemory : [(0x0080A103 : Word), 0x0020A023, 0x002081B3].all (fun w =>
    !(start 0 w).halted && (start 0 w).fetch == some w) = true := by decide +kernel
theorem witness_OnlyLoadAndStoreReachDataMemory_steps : step (start 0 0x0080A103) = .next (start 0 0x0080A103).stepped ∧
    step (start 0 0x0020A023) = .next (start 0 0x0020A023).stepped ∧ opcodeOf 0x0080A103 = 0x03 ∧ rdOf 0x0080A103 ≠ 0 ∧
    opcodeOf 0x0020A023 = 0x23 := ⟨step_stepped _, step_stepped _, by decide +kernel, by decide +kernel, by decide +kernel⟩

/-- A store to cell 0 by way of address 0, one no-op, and a load by way of address 131 (43_load_store.md R132). -/
def beforeStore : State := { (start 4 0x00000013).regEdit 1 0xAF with pc := 0 }
def afterStore : State := (beforeStore.memWrite (beforeStore.effectiveAddress 0 0) (beforeStore.regOperand 1)).retire
theorem witness_LoadReturnsLatestStore_store : exec (.sw 1 0 0 2) beforeStore = .next afterStore := rfl
theorem run_one (s : State) : Sys2Proof.core.run 1 s = .next s.stepped := by
  have h : Sys2Proof.core.step s = .next s.stepped := step_stepped s
  simp only [Host.Core.run, h]
theorem witness_LoadReturnsLatestStore_run : Sys2Proof.core.run 1 afterStore = .next afterStore.stepped := run_one afterStore
theorem witness_LoadReturnsLatestStore_between : ∀ m, m < 1 → ∀ u, Sys2Proof.core.run m afterStore = .next u →
    ¬ State.StoresTo u (dataCell (beforeStore.effectiveAddress 0 0)) := by
  intro m hm u hu
  obtain rfl : m = 0 := by omega
  injection hu with hu
  obtain rfl : afterStore = u := hu
  rintro ⟨-, w, hw, ho, -⟩
  rw [show afterStore.fetch = some 0x00000013 by decide +kernel] at hw
  injection hw with hw
  subst hw
  exact absurd ho (by decide)
theorem witness_LoadReturnsLatestStore_load :
    dataCell (afterStore.stepped.effectiveAddress 0 131) = dataCell (beforeStore.effectiveAddress 0 0) ∧
    (∃ t, exec (.lw 2 0 131 2) afterStore.stepped = .next t) :=
  ⟨by decide +kernel, (afterStore.stepped.writeReg 2
    (afterStore.stepped.memRead (afterStore.stepped.effectiveAddress 0 131))).retire, by simp only [exec, execLw]⟩

theorem witness_StepKeepsInvariant : (start 0 0x00000163).Inv ∧
    step (start 0 0x00000163) = .next (start 0 0x00000163).stepped := ⟨by decide +kernel, step_stepped _⟩
theorem witness_ReachableStatesMeetInvariant :
    Reachable (runEvents [.load [0x00000363], .step, .regEdit 0 7, .dmemEdit 31 1] State.reset) := ⟨_, rfl⟩

theorem witness_RegisterZeroReadsZero : step (start 0 0x00100033) = .next (start 0 0x00100033).stepped :=
  step_stepped _

theorem witness_OnlyResetAndLoadLeaveHalted : (start 0 0).halt.halted = true ∧ (start 8 0x00000063).Inv ∧
    (start 8 0x00000063).halted = false ∧ (start 8 0x00000063).fetch = some 0x00000063 ∧
    (start 8 0x30200073).halted = false ∧ (start 8 0x30200073).fetch = some 0x30200073 := by decide +kernel

theorem witness_LoadPlacesProgramAndResets :
    ((start 0 0).loadText "addi x1,x0,5".toList).1 = .ok ⟨[0x00500093], []⟩ := by decide +kernel
theorem witness_FailedLoadChangesNothing : ((start 0 0).loadText "add x1,x2".toList).1 =
    .error (.assembly (.invalidRegister "add".toList none)) ∧
    ((start 0 0).loadText "00500093\nx".toList).1 = .error (.badHexLine "x".toList) := by decide +kernel

theorem witness_CancelledStepCanBeRunAgain : (cancelAfter 4 (with12 0x0020A023 4 9)).cell 1 = 9 ∧
    (cancelAfter 3 (start 0 0)).halted = true ∧ (4 ≤ 4 ∧ 3 ≤ 3) := by decide +kernel
theorem witness_StepResultReportsTheStep : step (with12 0x0020A023 4 9) = .next (with12 0x0020A023 4 9).stepped ∧
    (stepResult (with12 0x0020A023 4 9)).map (·.memory) = some (some ⟨4, 1, 9, true⟩) ∧
    (stepResult (with12 0x002081B3 4 9)).map (·.wbEnable) = some true ∧
    (stepResult (start 0 0)).map (·.haltedNow) = some true := ⟨step_stepped _, by decide +kernel, by decide +kernel, by decide +kernel⟩

theorem witness_LabelsAreBoundToLineAddresses :
    collectLabels (sourceLines "nop\nL:".toList) 0 [] = .ok [("L".toList, 4)] ∧
    sourceLines "nop\nL:".toList = [.instruction "nop".toList] ++ .label "L".toList :: [] ∧
    collectLabels (sourceLines "L:\nL:".toList) 0 [] = .error (.duplicateLabel "L".toList) := by decide +kernel
/-- A label that is not defined twice stands before the one the error names (R165). -/
theorem test_duplicate_names_the_second_definition :
    assemble "b:\na:\nnop\na:".toList = .error (.duplicateLabel "a".toList) ∧
    (labelNames (sourceLines "b:\na:\nnop\na:".toList)).count "a".toList = 2 := by decide +kernel

/-- A handled line, then one whose third operand is the first to fail; and a load with two operands (R167, R173). -/
theorem witness_FirstFailingOperandAbortsAssembly :
    sourceLines "L:\nnop\nbeq x1,x31,M\nx".toList =
      [.label "L".toList, .instruction "nop".toList] ++ .instruction "beq x1,x31,M".toList :: [.instruction "x".toList] ∧
    collectLabels (sourceLines "L:\nnop\nbeq x1,x31,M\nx".toList) 0 [] = .ok [("L".toList, 0)] ∧
    encodeLines [("L".toList, 0)] [.label "L".toList, .instruction "nop".toList] 0 =
      .ok ⟨[], [⟨"nop".toList, "nop".toList⟩]⟩ ∧
    tokens "beq x1,x31,M".toList = "beq".toList :: ["x1".toList, "x31".toList, "M".toList] ∧
    asmTable.lookup "beq".toList = some (.branch 0) ∧ (AsmForm.branch 0).operandKinds = [.register, .register, .label] ∧
    OperandKind.label.accepts [("L".toList, 0)] (some "M".toList) = false ∧
    ["x1".toList, "x31".toList].all (fun t => OperandKind.register.accepts [("L".toList, 0)] (some t)) = true := by
  decide +kernel
theorem witness_FirstFailingOperandAbortsAssembly_addressing :
    sourceLines "lw x2,(x0)".toList = [] ++ .instruction "lw x2,(x0)".toList :: [] ∧
    collectLabels (sourceLines "lw x2,(x0)".toList) 0 [] = .ok [] ∧ encodeLines [] [] 0 = .ok ⟨[], []⟩ ∧
    tokens "lw x2,(x0)".toList = "lw".toList :: ["x2".toList, "x0".toList] ∧
    asmTable.lookup "lw".toList = some .lw ∧ ["x2".toList, "x0".toList].length < 3 := by decide +kernel
/-- The example of R179. -/
theorem test_undefined_label : assemble "beq x1,x2,nosuchlabel".toList =
    .error (.undefinedLabel "beq".toList (some "nosuchlabel".toList)) := by decide +kernel
theorem witness_WordsAndWarningsCountInstructionLines :
    assemble "addi x1,x0,5\nnop".toList = .ok ⟨[0x00500093], [⟨"nop".toList, "nop".toList⟩]⟩ := by decide +kernel
theorem witness_AssembledWordsDecodeToAssemblerMnemonics : assemble "jal x1,L\nL:".toList = .ok ⟨[0x004000EF], []⟩ := by decide +kernel
theorem witness_BranchOffsetIsLabelMinusAddress : asmTable.lookup "bgeu".toList = some (.branch 7) ∧
    parseRegister "x31".toList = some 31 ∧ parseRegister "x0".toList = some 0 ∧
    [("L".toList, 0)].lookup "L".toList = some 0 ∧ 4096 % 4 = 0 ∧ -4096 ≤ ((0 : Nat) : Int) - (4096 : Nat) ∧
    ((0 : Nat) : Int) - (4096 : Nat) ≤ 4094 ∧ ([] : LabelTable).lookup "L".toList = none := by decide +kernel

end Sys2Proof.Tests
end

section
/-! SUPPORT. What a step does, told by the word it fetches: the instruction's template for each opcode class, the condition
of a taken branch in the numbers of the rules, and the one lemma that says all outcomes of a fetched word. -/

namespace Sys2Proof.Machine

open Sys2Proof.Laws

/-! ## The condition of a taken branch (44_branch.md R135 to R140) -/

/-- A branch word with this funct3 is taken for these two register values, in the rules' own comparisons. -/
abbrev BranchCondition (f3 : BitVec 3) (a b : Word) : Prop :=
  (f3 = 0 ∧ a = b) ∨ (f3 = 1 ∧ a ≠ b) ∨ (f3 = 4 ∧ a.toInt < b.toInt) ∨ (f3 = 5 ∧ b.toInt ≤ a.toInt) ∨
    (f3 = 6 ∧ a.toNat < b.toNat) ∨ (f3 = 7 ∧ b.toNat ≤ a.toNat)

@[simp] theorem wordOfBool_bit0 (b : Bool) : (wordOfBool b)[0] = b := by cases b <;> rfl

@[simp] theorem alu_beqCmp_bit0 (a b : Word) : (alu .beqCmp a b)[0] = (a == b) := wordOfBool_bit0 _

@[simp] theorem alu_bltCmp_bit0 (a b : Word) : (alu .bltCmp a b)[0] = decide (a.toInt < b.toInt) := wordOfBool_bit0 _

@[simp] theorem alu_bltuCmp_bit0 (a b : Word) : (alu .bltuCmp a b)[0] = decide (a.toNat < b.toNat) := wordOfBool_bit0 _

/-! ## The template each opcode runs -/

theorem exec_decodeRegReg (w : Word) (s : State) :
    exec (decodeRegReg w) s =
      runRegReg (arithmeticOp (funct3Of w) (bit30 w) (bit30 w)) (rdOf w) (rs1Of w) (rs2Of w) s := by
  unfold decodeRegReg arithmeticOp
  split_ifs <;> rfl

theorem exec_decodeRegImm (w : Word) (s : State) :
    exec (decodeRegImm w) s =
      runRegImm (arithmeticOp (funct3Of w) false (bit30 w)) (rdOf w) (rs1Of w) (immIOf w) s := by
  simp only [decodeRegImm, arithmeticOp, Bool.false_eq_true, if_false]
  split_ifs <;> rfl

/-- A word with opcode 0x63 goes to its target when its condition holds and to the next instruction when not, the two
funct3 values without a condition among the latter. -/
theorem exec_decodeBranch (w : Word) (s : State) :
    exec (decodeBranch w) s = .next (s.retireTo
      (if BranchCondition (funct3Of w) (s.x (rs1Of w)) (s.x (rs2Of w)) then s.branchTarget (immBOf w) else s.pc + 4)) := by
  obtain h | h | h | h | h | h | h | h := funct3_cases (funct3Of w) <;>
    simp [decodeBranch, h, exec, execBeq, execBne, execBlt, execBge, execBltu, execBgeu, runBranch,
      execBranchFunct3_010, execBranchFunct3_011, runNoOp, State.regOperand, State.retire, BranchCondition]

theorem exec_decode_of_halting {w : Word} (h : isHaltingWord w = true) (s : State) :
    exec (decode w) s = .next s.halt := by
  obtain rfl | rfl | rfl := (isHaltingWord_iff w).mp h <;> rfl

/-- A word that does not halt and has none of the five executed opcodes is a no-op. -/
theorem exec_decode_of_unexecuted {w : Word} (halt : isHaltingWord w ≠ true)
    (op : opcodeOf w ∉ [(0x33 : BitVec 7), 0x13, 0x03, 0x23, 0x63]) (s : State) :
    exec (decode w) s = .next (s.retireTo (s.pc + 4)) := by
  simp only [ne_eq, isHaltingWord_iff, not_or] at halt
  simp only [List.mem_cons, List.not_mem_nil, or_false, not_or] at op
  simp only [decode, halt, op, if_false]
  split_ifs <;> rfl

/-- Everything a fetched word can do: halt; write the register its `rd` field names and go on, for opcodes 0x33, 0x13 and
0x03 alone; store one cell and go on; branch; or go on. -/
theorem exec_decode_cases (w : Word) (s : State) :
    (isHaltingWord w = true ∧ exec (decode w) s = .next s.halt) ∨
    (opcodeOf w ∈ [(0x33 : BitVec 7), 0x13, 0x03] ∧
      ∃ v, exec (decode w) s = .next ((s.writeReg (rdOf w) v).retireTo (s.pc + 4))) ∨
    (opcodeOf w = 0x23 ∧ exec (decode w) s = .next
      ((s.memWrite (s.effectiveAddress (rs1Of w) (immSOf w)) (s.x (rs2Of w))).retireTo (s.pc + 4))) ∨
    (opcodeOf w = 0x63 ∧ exec (decode w) s = .next (s.retireTo
      (if BranchCondition (funct3Of w) (s.x (rs1Of w)) (s.x (rs2Of w)) then s.branchTarget (immBOf w) else s.pc + 4))) ∨
    (opcodeOf w ∉ [(0x33 : BitVec 7), 0x13, 0x03, 0x23, 0x63] ∧
      exec (decode w) s = .next (s.retireTo (s.pc + 4))) := by
  by_cases op : opcodeOf w ∈ [(0x33 : BitVec 7), 0x13, 0x03, 0x23, 0x63]
  · simp only [List.mem_cons, List.not_mem_nil, or_false] at op
    obtain h | h | h | h | h := op
    · exact .inr (.inl ⟨by simp [h], _, by
        rw [decode_regReg h, exec_decodeRegReg]; exact congrArg Host.Outcome.next (runRegReg_spec rfl)⟩)
    · exact .inr (.inl ⟨by simp [h], _, by
        rw [decode_regImm h, exec_decodeRegImm]; exact congrArg Host.Outcome.next (runRegImm_spec rfl)⟩)
    · exact .inr (.inl ⟨by simp [h], _, by
        rw [decode_load h]; exact congrArg Host.Outcome.next (execLw_spec rfl)⟩)
    · exact .inr (.inr (.inl ⟨h, by rw [decode_store h]; exact congrArg Host.Outcome.next (execSw_spec rfl)⟩))
    · exact .inr (.inr (.inr (.inl ⟨h, by rw [decode_branch h, exec_decodeBranch]⟩)))
  · by_cases halt : isHaltingWord w = true
    · exact .inl ⟨halt, exec_decode_of_halting halt s⟩
    · exact .inr (.inr (.inr (.inr ⟨op, exec_decode_of_unexecuted halt op s⟩)))

end Sys2Proof.Machine
end

section
/-! SUPPORT. The program counter in numbers, the invariant along every event, and the stored cell of register 0, which no
step lets through. -/

namespace Sys2Proof.Machine

/-! ## The program counter in numbers (10_state.md R15, R16) -/

theorem alignPc_eq_shift (t : Word) : alignPc t = (t >>> 2) <<< 2 := by
  ext i hi; simp only [alignPc]
  interval_cases i <;> simp

/-- An assigned pc is rounded down to a multiple of 4. -/
theorem alignPc_toNat (t : Word) : (alignPc t).toNat = t.toNat / 4 * 4 := by
  have lt := t.isLt
  rw [alignPc_eq_shift, BitVec.toNat_shiftLeft, BitVec.toNat_ushiftRight, Nat.shiftRight_eq_div_pow, Nat.shiftLeft_eq]
  omega

/-- The address after an instruction that does not branch. -/
theorem State.nextInOrder_of_pc {s t : State} (h : t.pc = alignPc (s.pc + 4)) : s.NextInOrder t := by
  rw [State.NextInOrder, h, alignPc_toNat, BitVec.toNat_add]; rfl

/-- The target of a taken branch: its own address plus the signed offset, modulo 2^32. -/
theorem State.branchTarget_toNat (s : State) (offset : BitVec 13) :
    ((s.branchTarget offset).toNat : Int) = (s.pc.toNat + offset.toInt) % 2 ^ 32 := by
  have e : (sext13 offset).toInt = offset.toInt := BitVec.toInt_signExtend_of_le (by decide)
  rw [State.branchTarget, BitVec.toNat_add, ← e, BitVec.toInt_eq_toNat_cond]
  split <;> omega

/-- A step that starts or ends halted leaves the pc. -/
theorem step_pc_of_halted {s t : State} (h : step s = .next t) (halted : s.halted = true ∨ t.halted = true) :
    t.pc = s.pc := by
  obtain ⟨hs, e⟩ | ⟨hs, e⟩ | ⟨hs, rd, v, target, e⟩ | ⟨hs, addr, v, e⟩ := step_cases s <;>
    obtain rfl := Host.Outcome.next.inj (h.symm.trans e)
  · rfl
  · rfl
  · simp [hs] at halted
  · simp [hs] at halted

/-- A core that runs after a step ran before it. -/
theorem running_of_step_running {s t : State} (h : step s = .next t) (running : t.halted = false) : s.halted = false := by
  cases hs : s.halted
  · rfl
  · obtain rfl := Host.Outcome.next.inj (h.symm.trans (step_of_halted hs))
    exact hs.symm.trans running

/-- Where an executed word goes: to its target if it is a branch whose condition holds, otherwise four past itself. -/
theorem step_pc_of_running {s t : State} {w : Word} (h : step s = .next t) (f : s.fetch = some w)
    (running : t.halted = false) :
    t.pc = alignPc (if opcodeOf w = 0x63 ∧ BranchCondition (funct3Of w) (s.x (rs1Of w)) (s.x (rs2Of w))
      then s.branchTarget (immBOf w) else s.pc + 4) := by
  rw [step_of_fetch_some (running_of_step_running h running) f] at h
  obtain ⟨-, e⟩ | ⟨op, v, e⟩ | ⟨op, e⟩ | ⟨op, e⟩ | ⟨op, e⟩ := exec_decode_cases w s <;>
    obtain rfl := Host.Outcome.next.inj (h.symm.trans e)
  · exact absurd running (by simp)
  · rw [if_neg fun branch => absurd op (by simp [branch.1])]; simp
  · simp [op]
  · simp [op]
  · rw [if_neg fun branch => absurd op (by simp [branch.1])]; simp

/-! ## The invariant (10_state.md R27) -/

@[simp] theorem State.reset_regs_zero : State.reset.regs[0] = 0 := by simp [State.reset, Config.regSeed]

theorem State.reset_inv : State.reset.Inv := ⟨State.reset_regs_zero, by decide⟩

theorem State.retireTo_inv {s : State} (h : s.regs[0] = 0) (target : Word) : (s.retireTo target).Inv :=
  ⟨h, alignPc_low target⟩

/-- A step keeps the invariant: no register write reaches cell 0, and every assigned pc is rounded down. -/
theorem step_keeps_inv {s t : State} (inv : s.Inv) (h : step s = .next t) : t.Inv := by
  obtain ⟨-, e⟩ | ⟨-, e⟩ | ⟨-, rd, v, target, e⟩ | ⟨-, addr, v, e⟩ := step_cases s <;>
    obtain rfl := Host.Outcome.next.inj (h.symm.trans e)
  · exact inv
  · exact inv
  · exact State.retireTo_inv ((s.writeReg_cell0 rd v).trans inv.1) target
  · exact State.retireTo_inv inv.1 (s.pc + 4)

/-- Everything that can change the core keeps the invariant. -/
theorem Event.apply_keeps_inv (e : Event) {s : State} (inv : s.Inv) : (e.apply s).Inv := by
  cases e with
  | step => exact step_keeps_inv inv (step_stepped s)
  | reset | load => exact State.reset_inv
  | regEdit i v => exact ⟨(s.writeReg_cell0 i _).trans inv.1, (s.regEdit_pc i v).symm ▸ inv.2⟩
  | dmemEdit => exact inv

theorem runEvents_keeps_inv (es : List Event) {s : State} (inv : s.Inv) : (runEvents es s).Inv := by
  induction es generalizing s with
  | nil => exact inv
  | cons e es ih => exact ih (e.apply_keeps_inv inv)

/-! ## The stored cell of register 0 (10_state.md R11) -/

/-- The state with another Word in the stored cell of register 0. -/
def State.withCell0 (s : State) (v : Word) : State := { s with regs := s.regs.set 0 v }

/-- No read shows the stored cell of register 0. -/
@[simp] theorem State.x_withCell0 (s : State) (v : Word) (q : Reg) : (s.withCell0 v).x q = s.x q := by
  by_cases hq : q = 0
  · subst hq; rfl
  · have : 0 ≠ q.toNat := fun e => hq (BitVec.eq_of_toNat_eq e.symm)
    simp [State.x, State.withCell0, this]

/-- A register write and a change of the stored cell of register 0 do not meet. -/
theorem State.writeReg_withCell0 (s : State) (v u : Word) (rd : Reg) :
    (s.withCell0 v).writeReg rd u = (s.writeReg rd u).withCell0 v := by
  unfold State.writeReg
  split
  · rfl
  · next h =>
    have : 0 ≠ rd.toNat := fun e => h (BitVec.eq_of_toNat_eq e.symm)
    simp only [State.withCell0, Vector.set_comm _ _ this]

/-- The transition does the same whatever the stored cell of register 0 holds, and leaves that cell alone. -/
def IgnoresCell0 (f : State → Result) : Prop :=
  ∀ (s : State) (v : Word), ∃ t, f s = .next t ∧ f (s.withCell0 v) = .next (t.withCell0 v)

/-- Writing a register with a value that ignores the stored cell, then going on. -/
theorem writeReg_retire_ignoresCell0 (rd : Reg) (value : State → Word) (h : ∀ s v, value (s.withCell0 v) = value s) :
    IgnoresCell0 fun s => .next (s.writeReg rd (value s)).retire := fun s v =>
  ⟨_, rfl, by simp only [h, State.writeReg_withCell0]; rfl⟩

theorem runRegReg_ignoresCell0 (op : AluOp) (rd rs1 rs2 : Reg) : IgnoresCell0 (runRegReg op rd rs1 rs2) :=
  writeReg_retire_ignoresCell0 rd (fun s => alu op (s.x rs1) (s.x rs2)) (by simp)

theorem runRegImm_ignoresCell0 (op : AluOp) (rd rs1 : Reg) (imm : BitVec 12) : IgnoresCell0 (runRegImm op rd rs1 imm) :=
  writeReg_retire_ignoresCell0 rd (fun s => alu op (s.x rs1) (immOperand imm)) (by simp)

@[simp] theorem State.effectiveAddress_withCell0 (s : State) (v : Word) (rs1 : Reg) (imm : BitVec 12) :
    (s.withCell0 v).effectiveAddress rs1 imm = s.effectiveAddress rs1 imm := by
  simp [State.effectiveAddress, State.regOperand]

theorem execLw_ignoresCell0 (rd rs1 : Reg) (imm : BitVec 12) : IgnoresCell0 (execLw rd rs1 imm) :=
  writeReg_retire_ignoresCell0 rd (fun s => s.memRead (s.effectiveAddress rs1 imm)) fun s v => by
    rw [State.effectiveAddress_withCell0]; rfl

theorem execSw_ignoresCell0 (rs2 rs1 : Reg) (imm : BitVec 12) : IgnoresCell0 (execSw rs2 rs1 imm) := fun s v =>
  ⟨_, rfl, by simp only [execSw, State.effectiveAddress_withCell0, State.regOperand, State.x_withCell0]; rfl⟩

theorem runBranch_ignoresCell0 (cmp : AluOp) (invert : Bool) (rs1 rs2 : Reg) (offset : BitVec 13) :
    IgnoresCell0 (runBranch cmp invert rs1 rs2 offset) := fun s v =>
  ⟨_, rfl, by simp only [runBranch, State.regOperand, State.x_withCell0]; rfl⟩

theorem runNoOp_ignoresCell0 : IgnoresCell0 runNoOp := fun _ _ => ⟨_, rfl, rfl⟩

theorem halt_ignoresCell0 : IgnoresCell0 fun s => .next s.halt := fun _ _ => ⟨_, rfl, rfl⟩

theorem exec_ignoresCell0 (i : Instr) : IgnoresCell0 (exec i) := by
  cases i with
  | haltZero | haltEcall | haltEbreak => exact halt_ignoresCell0
  | add | sub | sll | slt | sltu | xor | srl | sra | or | and => exact runRegReg_ignoresCell0 _ _ _ _
  | addi | slli | slti | sltiu | xori | srli | srai | ori | andi => exact runRegImm_ignoresCell0 _ _ _ _
  | lw => exact execLw_ignoresCell0 _ _ _
  | sw => exact execSw_ignoresCell0 _ _ _
  | beq | bne | blt | bge | bltu | bgeu => exact runBranch_ignoresCell0 _ _ _ _ _
  | branchFunct3_010 | branchFunct3_011 | lui | jal | unrecognised => exact runNoOp_ignoresCell0

theorem step_ignoresCell0 : IgnoresCell0 step := by
  intro s v
  cases h : s.halted
  case true => exact ⟨s, step_of_halted h, step_of_halted h⟩
  case false =>
    cases f : s.fetch with
    | none => exact ⟨_, step_of_fetch_none h f, step_of_fetch_none h f⟩
    | some w =>
      rw [step_of_fetch_some h f, step_of_fetch_some (s := s.withCell0 v) h f]
      exact exec_ignoresCell0 (decode w) s v

end Sys2Proof.Machine
end

section
/-! The statements about the state (10_state.md), settled. -/

namespace Sys2Proof.Machine

/-- Settles O34: a step writes no cell of register 0 and rounds every pc it assigns down to a multiple of 4. -/
theorem stepKeepsInvariant : Obligations.StepKeepsInvariant := fun _ _ inv h => step_keeps_inv inv h

/-- Settles O35, with REG_SEED(0) = 0. -/
theorem resetMeetsInvariant : Obligations.ResetMeetsInvariant := State.reset_inv

/-- Settles O36, by induction on the events from power-on. -/
theorem reachableStatesMeetInvariant : Obligations.ReachableStatesMeetInvariant := by
  rintro _ ⟨es, rfl⟩
  exact runEvents_keeps_inv es State.reset_inv

/-- Settles O37: reads of register 0 and writes to it are decided by its number, and a step ignores its stored cell. -/
theorem registerZeroReadsZero : Obligations.RegisterZeroReadsZero := by
  refine ⟨fun es s => State.x_zero _, fun s v => State.writeReg_zero s _, fun cls d h => ?_, fun s t stored h => ?_⟩
  · simp [writeBackEnable, h]
  · obtain ⟨u, hu, hu'⟩ := step_ignoresCell0 s stored
    obtain rfl : u = t := Host.Outcome.next.inj (hu.symm.trans h)
    exact ⟨u.withCell0 stored, hu', State.x_withCell0 u stored, rfl, rfl, rfl, rfl, rfl⟩

/-- Settles O28, by what a step can do. -/
theorem cycleCountsExecutedInstructions : Obligations.CycleCountsExecutedInstructions := by
  intro s t h
  obtain ⟨hs, e⟩ | ⟨hs, e⟩ | ⟨hs, rd, v, target, e⟩ | ⟨hs, addr, v, e⟩ := step_cases s <;>
    obtain rfl := Host.Outcome.next.inj (h.symm.trans e)
  · simp [hs]
  · simp
  · simp [hs, BitVec.toNat_add]
  · simp [hs, BitVec.toNat_add]

/-- Settles O27, by where a halted, a halting and an executed step go. -/
theorem programCounterFollowsStep : Obligations.ProgramCounterFollowsStep := by
  refine ⟨fun s t h => ⟨step_pc_of_halted h, fun w f running => ?_⟩,
    fun s => ⟨rfl, fun _ => rfl, fun i v => s.regEdit_pc i v, fun _ _ => rfl⟩⟩
  have pc := step_pc_of_running h f running
  refine ⟨fun taken => ?_, fun untaken => ?_⟩
  · rw [pc, if_pos taken, alignPc_toNat, ← State.branchTarget_toNat]; rfl
  · rw [if_neg untaken] at pc
    exact State.nextInOrder_of_pc pc

/-- Settles O29, by what each fetched word writes. -/
theorem stepChangesOnlyTheDestinationRegister : Obligations.StepChangesOnlyTheDestinationRegister := by
  intro s t q h ne
  cases hs : s.halted
  case true =>
    obtain rfl := Host.Outcome.next.inj (h.symm.trans (step_of_halted hs))
    exact absurd rfl ne
  case false =>
    cases f : s.fetch with
    | none =>
      obtain rfl := Host.Outcome.next.inj (h.symm.trans (step_of_fetch_none hs f))
      exact absurd (s.x_halt q) ne
    | some w =>
      rw [step_of_fetch_some hs f] at h
      obtain ⟨-, e⟩ | ⟨op, v, e⟩ | ⟨-, e⟩ | ⟨-, e⟩ | ⟨-, e⟩ := exec_decode_cases w s <;>
        obtain rfl := Host.Outcome.next.inj (h.symm.trans e)
      case inr.inl =>
        rw [State.x_retireTo, State.x_writeReg] at ne
        obtain ⟨hq, hrd⟩ := (ite_ne_right_iff.mp ne).1
        exact ⟨w, rfl, hq, hq ▸ hrd, op⟩
      all_goals exact absurd rfl ne

end Sys2Proof.Machine
end

section
/-! SUPPORT. Data addresses in numbers, what reaches instruction memory, and the transitions whose outcome outside data
memory does not depend on data memory. -/

namespace Sys2Proof.Machine

open Sys2Proof.Laws

/-! ## The cell of a data address (20_memory.md R31 to R34) -/

/-- Bits [6:2] of an address in numbers. -/
theorem dataCell_toNat (addr : Word) : (dataCell addr).toNat = addr.toNat / 4 % 32 := by
  simp [dataCell, BitVec.extractLsb'_toNat, Nat.shiftRight_eq_div_pow]

theorem dataCell_add_multiple (addr : Word) (n : Nat) : dataCell (addr + BitVec.ofNat 32 (128 * n)) = dataCell addr := by
  apply BitVec.eq_of_toNat_eq
  rw [dataCell_toNat, dataCell_toNat, BitVec.toNat_add, BitVec.toNat_ofNat]
  omega

/-- The low two bits of an address do not select; `alignPc` clears them. -/
theorem dataCell_alignPc_add (addr : Word) {low : Word} (h : low.toNat < 4) :
    dataCell (alignPc addr + low) = dataCell addr := by
  apply BitVec.eq_of_toNat_eq
  have := addr.isLt
  rw [dataCell_toNat, dataCell_toNat, BitVec.toNat_add, alignPc_toNat]
  omega

/-- Base 0 with displacement -4 reaches the last cell. -/
theorem State.dataCell_effectiveAddress_neg_four {s : State} {rs1 : Reg} (h : s.x rs1 = 0) :
    dataCell (s.effectiveAddress rs1 (-4)) = 31 := by
  rw [State.effectiveAddress, State.regOperand, h]
  decide

/-! ## Instruction memory (20_memory.md R44) -/

theorem step_imem {s t : State} (h : step s = .next t) : t.imem = s.imem := by
  obtain ⟨-, e⟩ | ⟨-, e⟩ | ⟨-, rd, v, target, e⟩ | ⟨-, addr, v, e⟩ := step_cases s <;>
    obtain rfl := Host.Outcome.next.inj (h.symm.trans e)
  · rfl
  · rfl
  · exact s.writeReg_imem rd v
  · rfl

/-- Every event but a load leaves instruction memory alone. -/
theorem Event.apply_imem {e : Event} (h : ∀ p, e ≠ .load p) (s : State) : (e.apply s).imem = s.imem := by
  cases e with
  | step => exact step_imem (step_stepped s)
  | reset => rfl
  | load p => exact absurd rfl (h p)
  | regEdit i v => exact s.regEdit_imem i v
  | dmemEdit => rfl

/-! ## Data memory and the rest of the state (20_memory.md R46) -/

/-- The state with another data memory. -/
def State.withDmem (s : State) (m : Vector Word 32) : State := { s with dmem := m }

/-- A register write and a change of data memory do not meet. -/
theorem State.writeReg_withDmem (s : State) (m : Vector Word 32) (rd : Reg) (v : Word) :
    (s.withDmem m).writeReg rd v = (s.writeReg rd v).withDmem m := by
  unfold State.writeReg; split <;> rfl

/-- Whatever data memory holds, the transition does the same to the rest of the state. -/
def IgnoresDmem (f : State → Result) : Prop :=
  ∀ (s : State) (m : Vector Word 32), ∃ t m', f s = .next t ∧ f (s.withDmem m) = .next (t.withDmem m')

theorem runRegReg_ignoresDmem (op : AluOp) (rd rs1 rs2 : Reg) : IgnoresDmem (runRegReg op rd rs1 rs2) := fun s m =>
  ⟨_, m, rfl, by rw [runRegReg, State.writeReg_withDmem]; rfl⟩

theorem runRegImm_ignoresDmem (op : AluOp) (rd rs1 : Reg) (imm : BitVec 12) : IgnoresDmem (runRegImm op rd rs1 imm) :=
  fun s m => ⟨_, m, rfl, by rw [runRegImm, State.writeReg_withDmem]; rfl⟩

/-- A store writes data memory and reads none of it. -/
theorem execSw_ignoresDmem (rs2 rs1 : Reg) (imm : BitVec 12) : IgnoresDmem (execSw rs2 rs1 imm) := fun s m =>
  ⟨_, m.set (dataCell (s.effectiveAddress rs1 imm)).toNat (s.x rs2), rfl, rfl⟩

/-- No fetched word but a load lets data memory reach the rest of the state. -/
theorem exec_decode_ignoresDmem {w : Word} (load : opcodeOf w ≠ 0x03) : IgnoresDmem (exec (decode w)) := by
  intro s m
  by_cases op : opcodeOf w ∈ [(0x33 : BitVec 7), 0x13, 0x03, 0x23, 0x63]
  · simp only [List.mem_cons, List.not_mem_nil, or_false] at op
    obtain h | h | h | h | h := op
    · simp only [decode_regReg h, exec_decodeRegReg]; exact runRegReg_ignoresDmem _ _ _ _ s m
    · simp only [decode_regImm h, exec_decodeRegImm]; exact runRegImm_ignoresDmem _ _ _ _ s m
    · exact absurd h load
    · rw [decode_store h]; exact execSw_ignoresDmem _ _ _ s m
    · simp only [decode_branch h, exec_decodeBranch]; exact ⟨_, m, rfl, rfl⟩
  · by_cases halt : isHaltingWord w = true
    · exact ⟨_, m, exec_decode_of_halting halt s, exec_decode_of_halting halt _⟩
    · exact ⟨_, m, exec_decode_of_unexecuted halt op s, exec_decode_of_unexecuted halt op _⟩

/-- No fetched word but a store changes data memory. -/
theorem exec_decode_dmem {w : Word} (store : opcodeOf w ≠ 0x23) {s t : State} (h : exec (decode w) s = .next t) :
    t.dmem = s.dmem := by
  obtain ⟨-, e⟩ | ⟨-, v, e⟩ | ⟨op, -⟩ | ⟨-, e⟩ | ⟨-, e⟩ := exec_decode_cases w s
  case inr.inr.inl => exact absurd op store
  all_goals
    obtain rfl := Host.Outcome.next.inj (h.symm.trans e)
    simp

end Sys2Proof.Machine
end

section
/-! The statements about the memories (20_memory.md), settled. -/

namespace Sys2Proof.Machine

open Sys2Proof.Laws

/-- Settles O30, by what a step and each host operation do to instruction memory. -/
theorem instructionMemoryChangesOnlyByLoad : Obligations.InstructionMemoryChangesOnlyByLoad := by
  refine ⟨fun s t => step_imem, State.fetch_memWrite, fun e s changed => ?_⟩
  by_contra other
  exact changed (Event.apply_imem (fun p hp => other ⟨p, hp, by rw [hp]; rfl⟩) s)

/-- Settles O31, by the number of the cell an address selects. -/
theorem dataAddressesSelectCells : Obligations.DataAddressesSelectCells := by
  intro s addr v
  refine ⟨?_, fun k => ?_, ⟨_, rfl⟩, fun n => ?_, fun low h => ?_, rfl, rfl,
    fun rs1 => State.dataCell_effectiveAddress_neg_four⟩
  · simp only [State.memRead, State.cell, dataCell_toNat]
  · simp only [State.memWrite, State.cell_setCell, ← dataCell_toNat, BitVec.toNat_inj]
  · simp only [State.memRead, State.memWrite, dataCell_add_multiple, and_self]
  · exact congrArg s.cell (dataCell_alignPc_add addr h)

/-- Settles O32: a store's and a load's effect are their templates', and every other fetched word neither writes data memory
nor lets it reach the rest of the state. -/
theorem onlyLoadAndStoreReachDataMemory : Obligations.OnlyLoadAndStoreReachDataMemory := by
  intro s t w hs f h
  rw [step_of_fetch_some hs f] at h
  refine ⟨fun op => exec_decode_dmem op h, fun op => ?_, fun op => ?_, fun op m => ?_⟩
  · rw [decode_store op] at h
    obtain rfl := execSw_spec h
    exact ⟨fun k => s.cell_setCell _ k _, fun q => rfl⟩
  · rw [decode_load op] at h
    obtain rfl := execLw_spec h
    exact ⟨fun rd => (s.x_writeReg _ _ _).trans (if_pos ⟨rfl, rd⟩),
      fun q ne => (s.x_writeReg _ q _).trans (if_neg fun same => ne same.1)⟩
  · obtain ⟨u, m', hu, hu'⟩ := exec_decode_ignoresDmem op s m
    obtain rfl := Host.Outcome.next.inj (hu.symm.trans h)
    exact ⟨_, (step_of_fetch_some (s := s.withDmem m) hs f).trans hu', rfl, rfl, rfl, rfl, rfl⟩

end Sys2Proof.Machine
end

section
/-! SUPPORT. Integers as fields (00_scope.md R7; 30_encoding.md R58, R61 to R68): what masking an integer to a width keeps,
and how a field reads as an integer. -/

namespace Sys2Proof.Laws

/-! ## Integers masked to a width -/

/-- Masking an integer to a width keeps the low bits of its Word. -/
theorem ofInt_eq_setWidth_ofInt {n : Nat} (h : n ≤ 32) (v : Int) : BitVec.ofInt n v = (BitVec.ofInt 32 v).setWidth n := by
  have dvd : ((2 ^ n : Nat) : Int) ∣ (2 ^ 32 : Nat) := Int.natCast_dvd_natCast.mpr (Nat.pow_dvd_pow 2 h)
  apply BitVec.eq_of_toInt_eq
  rw [BitVec.toInt_setWidth, BitVec.toNat_ofInt, BitVec.toInt_ofInt, Int.toNat_of_nonneg (Int.emod_nonneg v (by simp))]
  rw [Int.bmod_def, Int.bmod_def, Int.emod_emod_of_dvd v dvd]

/-- An integer masked to a width is its Word under that many ones. -/
theorem setWidth_ofInt {n : Nat} (h : n ≤ 32) (v : Int) :
    (BitVec.ofInt n v).setWidth 32 = BitVec.ofInt 32 v &&& BitVec.ofNat 32 (2 ^ n - 1) := by
  have ones : 2 ^ n - 1 < 2 ^ 32 := by have := Nat.pow_le_pow_right (n := 2) (by decide) h; omega
  rw [ofInt_eq_setWidth_ofInt h]
  apply BitVec.eq_of_toNat_eq
  rw [BitVec.toNat_and, BitVec.toNat_ofNat, Nat.mod_eq_of_lt ones, Nat.and_two_pow_sub_one_eq_mod]
  rw [BitVec.toNat_setWidth_of_le h, BitVec.toNat_setWidth]

/-- The upper piece of the S immediate. -/
theorem putAt_immS_upper (imm : BitVec 12) : putAt 32 25 (imm.extractLsb' 5 7) = (imm.setWidth 32 >>> 5) <<< 25 := by
  ext i hi; simp only [putAt]
  interval_cases i <;> simp

/-- The lower piece of the S immediate. -/
theorem putAt_immS_lower (imm : BitVec 12) : putAt 32 7 (imm.extractLsb' 0 5) = (imm.setWidth 32 &&& 0x1F) <<< 7 := by
  ext i hi; simp only [putAt]
  interval_cases i <;> simp

/-- The B encoder drops bit 0 of an integer offset, so it comes back rounded down to an even one. -/
@[simp] theorem immBOf_packB_ofInt (offset : Int) (rs2 rs1 : Reg) (f3 : BitVec 3) (op : BitVec 7) :
    immBOf (packB (BitVec.ofInt 13 offset) rs2 rs1 f3 op) = BitVec.ofInt 13 (offset - offset % 2) := by
  rw [immBOf_packB]
  apply BitVec.eq_of_toNat_eq
  simp only [putAt, BitVec.toNat_shiftLeft, BitVec.toNat_setWidth, BitVec.extractLsb'_toNat, BitVec.toNat_ofInt,
    Nat.shiftLeft_eq, Nat.shiftRight_eq_div_pow]
  omega

/-! ## Fields and immediates as numbers -/

/-- A field as a number. -/
theorem toNat_extractLsb' (w : Word) (lo len : Nat) : (w.extractLsb' lo len).toNat = w.toNat / 2 ^ lo % 2 ^ len := by
  rw [BitVec.extractLsb'_toNat, Nat.shiftRight_eq_div_pow]

/-- The number of a field masks to that field. -/
theorem ofInt_toNat {n : Nat} (v : BitVec n) : BitVec.ofInt n v.toNat = v := by
  rw [BitVec.ofInt_natCast, BitVec.ofNat_toNat, BitVec.setWidth_eq]

theorem toInt_sext12 (v : BitVec 12) : (sext12 v).toInt = v.toInt := BitVec.toInt_signExtend_of_le (by decide)

theorem toInt_sext13 (v : BitVec 13) : (sext13 v).toInt = v.toInt := BitVec.toInt_signExtend_of_le (by decide)

theorem toInt_sext12_ofInt {i : Int} (lo : -2048 ≤ i) (hi : i ≤ 2047) : (sext12 (BitVec.ofInt 12 i)).toInt = i := by
  rw [toInt_sext12]
  exact BitVec.toInt_ofInt_eq_self (by decide) lo (by omega)

theorem toInt_sext13_ofInt {i : Int} (lo : -4096 ≤ i) (hi : i ≤ 4095) : (sext13 (BitVec.ofInt 13 i)).toInt = i := by
  rw [toInt_sext13]
  exact BitVec.toInt_ofInt_eq_self (by decide) lo (by omega)

/-! ## The decoded record and the encoders (30_encoding.md R60, R68) -/

@[simp] theorem decodeFields_opcode (w : Word) : (decodeFields w).opcode = opcodeOf w := rfl
@[simp] theorem decodeFields_rd (w : Word) : (decodeFields w).rd = rdOf w := rfl
@[simp] theorem decodeFields_funct3 (w : Word) : (decodeFields w).funct3 = funct3Of w := rfl
@[simp] theorem decodeFields_rs1 (w : Word) : (decodeFields w).rs1 = rs1Of w := rfl
@[simp] theorem decodeFields_rs2 (w : Word) : (decodeFields w).rs2 = rs2Of w := rfl
@[simp] theorem decodeFields_funct7 (w : Word) : (decodeFields w).funct7 = funct7Of w := rfl
@[simp] theorem decodeFields_tag (w : Word) : (decodeFields w).tag = tagOf (opcodeOf w) := rfl
@[simp] theorem decodeFields_imm (w : Word) : (decodeFields w).imm = immOf (tagOf (opcodeOf w)) w := rfl

theorem encodeR_fields (w : Word) :
    encodeR (funct7Of w).toNat (rs2Of w).toNat (rs1Of w).toNat (funct3Of w).toNat (rdOf w).toNat (opcodeOf w).toNat = w := by
  simpa only [encodeR, ofInt_toNat] using packR_fields w

theorem encodeI_fields {w : Word} (tag : tagOf (opcodeOf w) = .I) :
    encodeI (immOf (tagOf (opcodeOf w)) w).toInt (rs1Of w).toNat (funct3Of w).toNat (rdOf w).toNat (opcodeOf w).toNat = w := by
  rw [tag, immOf, toInt_sext12]
  simpa only [encodeI, ofInt_toNat, BitVec.ofInt_toInt] using packI_fields w

theorem encodeS_fields {w : Word} (tag : tagOf (opcodeOf w) = .S) :
    encodeS (immOf (tagOf (opcodeOf w)) w).toInt (rs2Of w).toNat (rs1Of w).toNat (funct3Of w).toNat (opcodeOf w).toNat = w := by
  rw [tag, immOf, toInt_sext12]
  simpa only [encodeS, ofInt_toNat, BitVec.ofInt_toInt] using packS_fields w

theorem encodeB_fields {w : Word} (tag : tagOf (opcodeOf w) = .B) :
    encodeB (immOf (tagOf (opcodeOf w)) w).toInt (rs2Of w).toNat (rs1Of w).toNat (funct3Of w).toNat (opcodeOf w).toNat = w := by
  rw [tag, immOf, toInt_sext13]
  simpa only [encodeB, ofInt_toNat, BitVec.ofInt_toInt] using packB_fields w

end Sys2Proof.Laws
end

section
/-! The statements about encoding (30_encoding.md), settled. -/

namespace Sys2Proof

open Sys2Proof.Laws

/-- Settles O6: each field is a run of bits of the word, and nothing stands above funct7. -/
theorem fieldsStandAtFixedPositions : Obligations.FieldsStandAtFixedPositions := by
  intro w
  have top : w.toNat / 2 ^ 25 < 2 ^ 7 := by omega
  refine ⟨?_, toNat_extractLsb' w 7 5, toNat_extractLsb' w 12 3, toNat_extractLsb' w 15 5, toNat_extractLsb' w 20 5, ?_⟩
  · exact (toNat_extractLsb' w 0 7).trans (by rw [pow_zero, Nat.div_one])
  · exact (toNat_extractLsb' w 25 7).trans (Nat.mod_eq_of_lt top)

/-- Settles O4: each field put in its place is its argument masked and shifted, and so are the two pieces of the S
immediate. -/
theorem encodersOfPrintedFormatsMaskAndShift : Obligations.EncodersOfPrintedFormatsMaskAndShift := by
  intro f7 rs2 rs1 f3 rd op imm
  refine ⟨?_, ?_, ?_⟩
  · simp (disch := decide) only [encodeR, packR, putAt, setWidth_ofInt, BitVec.shiftLeft_zero, Nat.reducePow, Nat.reduceSub]
  · simp (disch := decide) only [encodeI, packI, putAt, setWidth_ofInt, BitVec.shiftLeft_zero, Nat.reducePow, Nat.reduceSub]
  · rw [encodeS, packS, putAt_immS_upper, putAt_immS_lower]
    simp (disch := decide) only [putAt, setWidth_ofInt, BitVec.shiftLeft_zero, Nat.reducePow, Nat.reduceSub]

/-- Settles O3: a packed word has the fields it was packed from, an integer in range is what its field reads as, and the
fields of a word pack to it again. -/
theorem fieldDecoderInvertsEncoders : Obligations.FieldDecoderInvertsEncoders := by
  -- The fields of a packed word are the `@[simp]` lemmas of Laws; in each clause the ranges make every masking the identity.
  refine ⟨?_, ?_, ?_, ?_, fun w => ⟨encodeR_fields w, encodeI_fields, encodeS_fields, encodeB_fields⟩⟩
  · intro f7 rs2 rs1 f3 rd hf7 hrs2 hrs1 hf3 hrd
    simp (disch := omega) [encodeR, tagOf, immOf, Int.emod_eq_of_lt]
  · rintro i rs1 f3 rd op hrs1 hf3 hrd (rfl | rfl) <;>
      simp +contextual (disch := omega) [encodeI, tagOf, immOf, Int.emod_eq_of_lt, toInt_sext12_ofInt]
  · intro i rs2 rs1 f3 hrs2 hrs1 hf3
    simp +contextual (disch := omega) [encodeS, tagOf, immOf, Int.emod_eq_of_lt, toInt_sext12_ofInt]
  · intro i rs2 rs1 f3 hrs2 hrs1 hf3
    simp +contextual (disch := omega) [encodeB, tagOf, immOf, Int.emod_eq_of_lt, toInt_sext13_ofInt]

end Sys2Proof
end

section
/-! SUPPORT. The ALU in numbers, one lemma for each operation of the table, and the amount a shift takes from operand B. -/

namespace Sys2Proof.Machine

open Sys2Proof.Laws

/-! ## Operands and results (40_datapath.md R82, R84) -/

/-- The shift amount in numbers (R82). -/
theorem shiftAmount_eq_mod (b : Word) : shiftAmount b = b.toNat % 32 :=
  (toNat_extractLsb' b 0 5).trans (by rw [pow_zero, Nat.div_one]; rfl)

theorem shiftAmount_sext12 (imm : BitVec 12) : shiftAmount (sext12 imm) = (imm.extractLsb' 0 5).toNat := by
  refine congrArg BitVec.toNat (?_ : (sext12 imm).extractLsb' 0 5 = _)
  ext i hi; simp only [sext12]
  interval_cases i <;> simp [BitVec.getElem_signExtend]

theorem wordOfBool_eq_zero_or_one (b : Bool) : wordOfBool b = 0 ∨ wordOfBool b = 1 := by
  cases b
  · exact .inl rfl
  · exact .inr rfl

theorem wordOfBool_toNat (b : Bool) : (wordOfBool b).toNat = if b then 1 else 0 := by cases b <;> rfl

/-! ## The operations (40_datapath.md R80) -/

theorem alu_add_toNat (a b : Word) : (alu .add a b).toNat = (a.toNat + b.toNat) % 2 ^ 32 := BitVec.toNat_add a b

theorem alu_sub_toNat (a b : Word) : ((alu .sub a b).toNat : Int) = ((a.toNat : Int) - b.toNat) % 2 ^ 32 := by
  have lt := b.isLt
  rw [alu, BitVec.toNat_sub]
  omega

theorem alu_sll_toNat (a b : Word) : (alu .sll a b).toNat = a.toNat * 2 ^ (b.toNat % 32) % 2 ^ 32 := by
  rw [alu, BitVec.toNat_shiftLeft, Nat.shiftLeft_eq, shiftAmount_eq_mod]

theorem alu_srl_toNat (a b : Word) : (alu .srl a b).toNat = a.toNat / 2 ^ (b.toNat % 32) := by
  rw [alu, BitVec.toNat_ushiftRight, Nat.shiftRight_eq_div_pow, shiftAmount_eq_mod]

theorem alu_sra_toInt (a b : Word) : (alu .sra a b).toInt = a.toInt / 2 ^ (b.toNat % 32) := by
  rw [alu, BitVec.toInt_sshiftRight, Int.shiftRight_eq_div_pow, shiftAmount_eq_mod]
  norm_cast

theorem alu_xor_getLsbD (a b : Word) (i : Nat) : (alu .xor a b).getLsbD i = (a.getLsbD i != b.getLsbD i) :=
  BitVec.getLsbD_xor

theorem alu_or_getLsbD (a b : Word) (i : Nat) : (alu .or a b).getLsbD i = (a.getLsbD i || b.getLsbD i) :=
  BitVec.getLsbD_or

theorem alu_and_getLsbD (a b : Word) (i : Nat) : (alu .and a b).getLsbD i = (a.getLsbD i && b.getLsbD i) :=
  BitVec.getLsbD_and

/-- SLT and the comparator of BLT and BGE. -/
theorem wordOfBool_slt_toNat (a b : Word) : (wordOfBool (a.slt b)).toNat = if a.toInt < b.toInt then 1 else 0 := by
  simp only [wordOfBool_toNat, BitVec.slt, decide_eq_true_eq]

/-- SLTU and the comparator of BLTU and BGEU. -/
theorem wordOfBool_ult_toNat (a b : Word) : (wordOfBool (a.ult b)).toNat = if a.toNat < b.toNat then 1 else 0 := by
  simp only [wordOfBool_toNat, BitVec.ult, decide_eq_true_eq]

/-- SEQ and the comparator of BEQ and BNE. -/
theorem wordOfBool_beq_toNat (a b : Word) : (wordOfBool (a == b)).toNat = if a = b then 1 else 0 := by
  simp only [wordOfBool_toNat, beq_iff_eq]

/-! ## Shifts and their amounts (40_datapath.md R82) -/

/-- A shift sees operand B through its shift amount only. -/
theorem alu_shift_congr {op : AluOp} (shift : op ∈ [AluOp.sll, .srl, .sra]) (a : Word) {b c : Word}
    (amount : shiftAmount b = shiftAmount c) : alu op a b = alu op a c := by
  simp only [List.mem_cons, List.not_mem_nil, or_false] at shift
  obtain rfl | rfl | rfl := shift <;> simp only [alu, amount]

theorem alu_shift_zero {op : AluOp} (shift : op ∈ [AluOp.sll, .srl, .sra]) (a : Word) : alu op a 0 = a := by
  simp only [List.mem_cons, List.not_mem_nil, or_false] at shift
  have zero : shiftAmount 0 = 0 := rfl
  obtain rfl | rfl | rfl := shift <;> simp only [alu, zero]
  · exact BitVec.shiftLeft_zero a
  · exact BitVec.ushiftRight_zero a
  · exact BitVec.sshiftRight_zero

/-- The mask 0x1F keeps the shift amount. -/
theorem shiftAmount_and_mask (b : Word) : shiftAmount (b &&& 0x1F) = shiftAmount b := by
  refine congrArg BitVec.toNat (?_ : (b &&& 0x1F).extractLsb' 0 5 = b.extractLsb' 0 5)
  ext i hi
  interval_cases i <;> simp

/-- The marker bit 10 of a SRAI immediate is no part of the shift amount. -/
theorem shiftAmount_srai (shamt : BitVec 12) :
    shiftAmount (sext12 (0x400 ||| shamt)) = shiftAmount (BitVec.ofNat 32 shamt.toNat) := by
  have low : (0x400 ||| shamt).extractLsb' 0 5 = shamt.extractLsb' 0 5 := by
    ext i hi
    interval_cases i <;> simp
  rw [shiftAmount_sext12, low, shiftAmount_eq_mod, BitVec.extractLsb'_toNat, BitVec.toNat_ofNat]
  omega

end Sys2Proof.Machine
end

section
/-! SUPPORT. The phases of the datapath: what the control unit selects for a fetched word, what each phase leaves, and that
an executed word reaches the state of its instruction. -/

namespace Sys2Proof.Machine

open Sys2Proof.Laws

/-! ## The control unit for a fetched word (40_datapath.md R90, R91) -/

theorem controlOf_regReg {w : Word} (h : opcodeOf w = 0x33) : controlOf (decodeFields w) =
    (.R, ⟨false, false, false, false, false, arithmeticOp (funct3Of w) (bit30 w) (bit30 w)⟩) := by
  rw [← funct7Of_bit5, controlOf, decodeFields_opcode, h]; rfl

theorem controlOf_regImm {w : Word} (h : opcodeOf w = 0x13) : controlOf (decodeFields w) =
    (.IAlu, ⟨true, false, false, false, false, arithmeticOp (funct3Of w) false (bit30 w)⟩) := by
  rw [← funct7Of_bit5, controlOf, decodeFields_opcode, h]; rfl

theorem controlOf_load {w : Word} (h : opcodeOf w = 0x03) :
    controlOf (decodeFields w) = (.Load, ⟨true, true, false, false, false, .add⟩) := by
  rw [controlOf, decodeFields_opcode, h]; rfl

theorem controlOf_store {w : Word} (h : opcodeOf w = 0x23) :
    controlOf (decodeFields w) = (.Store, ⟨true, false, true, false, false, .add⟩) := by
  rw [controlOf, decodeFields_opcode, h]; rfl

/-- A word with opcode 0x63 is a branch with its comparator and polarity, or unrecognised where funct3 has none. -/
theorem controlOf_branch {w : Word} (h : opcodeOf w = 0x63) : controlOf (decodeFields w) =
    ((branchCondition (funct3Of w)).elim (.Unrecognised, ControlSignals.none)
      fun row => (.Branch, ⟨false, false, false, true, row.2, row.1⟩)) := by
  rw [controlOf, decodeFields_opcode, decodeFields_funct3, h]
  cases row : branchCondition (funct3Of w) <;> simp [control, row]

theorem controlOf_unexecuted {w : Word} (op : opcodeOf w ∉ [(0x33 : BitVec 7), 0x13, 0x03, 0x23, 0x63]) :
    controlOf (decodeFields w) = (.Unrecognised, ControlSignals.none) := by
  simp only [List.mem_cons, List.not_mem_nil, or_false, not_or] at op
  simp only [controlOf, control, decodeFields_opcode, op, if_false]

/-! ## The phases (40_datapath.md R94 to R99) -/

@[simp] theorem memoryPhase_halted (c : ControlSignals) (e : ExecuteResult) (s : State) :
    (memoryPhase c e s).halted = s.halted := by
  unfold memoryPhase; split <;> rfl

@[simp] theorem writeBackPhase_halted (cls : OpClass) (d : Decoded) (c : ControlSignals) (e : ExecuteResult)
    (m : Option MemoryAccess) (s : State) : (writeBackPhase cls d c e m s).halted = s.halted := by
  unfold writeBackPhase; split <;> simp

/-- A class that writes back writes its `rd` field, a write to register 0 being the disabled one, and goes on. -/
theorem writeBackPhase_of_writing {cls : OpClass} (writing : cls = .R ∨ cls = .IAlu ∨ cls = .Load) {c : ControlSignals}
    (branch : c.branchEnable = false) (d : Decoded) (e : ExecuteResult) (m : Option MemoryAccess) (s : State) :
    writeBackPhase cls d c e m s = (s.writeReg d.rd (writeBackValue c e m)).retireTo (s.pc + 4) := by
  have enable : writeBackEnable cls d = (d.rd != 0) := by obtain rfl | rfl | rfl := writing <;> rfl
  have next : nextPc d c e s = s.pc + 4 := by simp [nextPc, branchTaken, branch]
  rw [writeBackPhase, enable, next]
  by_cases rd : d.rd = 0
  · rw [rd]; rfl
  · rw [if_pos (bne_iff_ne.mpr rd)]

/-- A class that does not write back only goes on or to the branch target. -/
theorem writeBackPhase_of_not_writing {cls : OpClass} (silent : cls = .Store ∨ cls = .Branch ∨ cls = .Unrecognised)
    (d : Decoded) (c : ControlSignals) (e : ExecuteResult) (m : Option MemoryAccess) (s : State) :
    writeBackPhase cls d c e m s = s.retireTo (nextPc d c e s) := by
  have enable : writeBackEnable cls d = false := by obtain rfl | rfl | rfl := silent <;> rfl
  rw [writeBackPhase, enable]; rfl

/-! ## The state an executed word reaches -/

/-- Phases 2 to 5 of the datapath on a fetched word that does not halt (40_datapath.md R95). -/
def executedState (w : Word) (s : State) : State :=
  let d := decodeFields w
  let c := (controlOf d).2
  let e := executePhase d c s
  writeBackPhase (controlOf d).1 d c e (memoryAccess d c e s) (memoryPhase c e s)

@[simp] theorem executedState_halted (w : Word) (s : State) : (executedState w s).halted = s.halted := by
  simp [executedState]

theorem executedState_regReg {w : Word} (h : opcodeOf w = 0x33) (s : State) : executedState w s =
    (s.writeReg (rdOf w) (alu (arithmeticOp (funct3Of w) (bit30 w) (bit30 w)) (s.x (rs1Of w)) (s.x (rs2Of w)))).retireTo
      (s.pc + 4) := by
  simp only [executedState, controlOf_regReg h]
  exact writeBackPhase_of_writing (.inl rfl) rfl _ _ _ _

theorem executedState_regImm {w : Word} (h : opcodeOf w = 0x13) (s : State) : executedState w s =
    (s.writeReg (rdOf w) (alu (arithmeticOp (funct3Of w) false (bit30 w)) (s.x (rs1Of w)) (sext12 (immIOf w)))).retireTo
      (s.pc + 4) := by
  have imm : (decodeFields w).imm = sext12 (immIOf w) := by rw [decodeFields_imm, h]; rfl
  simp only [executedState, controlOf_regImm h, ← imm]
  exact writeBackPhase_of_writing (.inr (.inl rfl)) rfl _ _ _ _

theorem executedState_load {w : Word} (h : opcodeOf w = 0x03) (s : State) : executedState w s =
    (s.writeReg (rdOf w) (s.memRead (s.effectiveAddress (rs1Of w) (immIOf w)))).retireTo (s.pc + 4) := by
  have imm : (decodeFields w).imm = sext12 (immIOf w) := by rw [decodeFields_imm, h]; rfl
  simp only [executedState, controlOf_load h]
  refine (writeBackPhase_of_writing (.inr (.inr rfl)) rfl _ _ _ _).trans ?_
  rw [State.effectiveAddress, ← imm]
  simp only [memoryAccess, decodeFields_opcode, h]; rfl

theorem executedState_store {w : Word} (h : opcodeOf w = 0x23) (s : State) : executedState w s =
    (s.memWrite (s.effectiveAddress (rs1Of w) (immSOf w)) (s.x (rs2Of w))).retireTo (s.pc + 4) := by
  have imm : (decodeFields w).imm = sext12 (immSOf w) := by rw [decodeFields_imm, h]; rfl
  simp only [executedState, controlOf_store h]
  refine (writeBackPhase_of_not_writing (.inl rfl) _ _ _ _ _).trans ?_
  rw [State.effectiveAddress, ← imm]; rfl

/-- The comparator's bit 0 under the polarity of the branch row says whether the rule's comparison holds. -/
theorem branchCondition_taken_iff (f3 : BitVec 3) (a b : Word) :
    ((branchCondition f3).elim false fun row => (alu row.1 a b).getLsbD 0 ^^ row.2) = true ↔ BranchCondition f3 a b := by
  obtain rfl | rfl | rfl | rfl | rfl | rfl | rfl | rfl := funct3_cases f3 <;> simp [branchCondition, BranchCondition]

theorem executedState_branch {w : Word} (h : opcodeOf w = 0x63) (s : State) : executedState w s = s.retireTo
    (if BranchCondition (funct3Of w) (s.x (rs1Of w)) (s.x (rs2Of w)) then s.branchTarget (immBOf w) else s.pc + 4) := by
  have imm : (decodeFields w).imm = sext13 (immBOf w) := by rw [decodeFields_imm, h]; rfl
  refine Eq.trans ?_ (congrArg s.retireTo (if_congr (branchCondition_taken_iff _ _ _) rfl rfl))
  rw [State.branchTarget, ← imm]
  simp only [executedState, controlOf_branch h]
  cases branchCondition (funct3Of w) with
  | none => exact writeBackPhase_of_not_writing (.inr (.inr rfl)) _ _ _ _ _
  | some row => exact writeBackPhase_of_not_writing (.inr (.inl rfl)) _ _ _ _ _

theorem executedState_unexecuted {w : Word} (op : opcodeOf w ∉ [(0x33 : BitVec 7), 0x13, 0x03, 0x23, 0x63]) (s : State) :
    executedState w s = s.retireTo (s.pc + 4) := by
  simp only [executedState, controlOf_unexecuted op]
  exact writeBackPhase_of_not_writing (.inr (.inr rfl)) _ _ _ _ _

/-- The refinement, class by class: the datapath reaches the state of the decoded instruction's own meaning. -/
theorem exec_decode_eq_executedState {w : Word} (run : isHaltingWord w ≠ true) (s : State) :
    exec (decode w) s = .next (executedState w s) := by
  by_cases op : opcodeOf w ∈ [(0x33 : BitVec 7), 0x13, 0x03, 0x23, 0x63]
  · simp only [List.mem_cons, List.not_mem_nil, or_false] at op
    obtain h | h | h | h | h := op
    · rw [decode_regReg h, exec_decodeRegReg, executedState_regReg h]
      exact congrArg Host.Outcome.next (runRegReg_spec rfl)
    · rw [decode_regImm h, exec_decodeRegImm, executedState_regImm h]
      exact congrArg Host.Outcome.next (runRegImm_spec rfl)
    · rw [decode_load h, executedState_load h]; exact congrArg Host.Outcome.next (execLw_spec rfl)
    · rw [decode_store h, executedState_store h]; exact congrArg Host.Outcome.next (execSw_spec rfl)
    · rw [decode_branch h, exec_decodeBranch, executedState_branch h]
  · rw [exec_decode_of_unexecuted run op, executedState_unexecuted op]

/-! ## The step of the datapath, by what it fetches (47_host_interface.md R203 to R207) -/

theorem runStep_of_halted {s : State} (h : s.halted = true) : runStep s = (none, s) := by simp [runStep, h]

theorem runStep_of_fetch_none {s : State} (h : s.halted = false) (f : s.fetch = none) :
    runStep s = (some (haltResult none s), s.halt) := by
  simp [runStep, h, f]

theorem runStep_of_halting {s : State} {w : Word} (h : s.halted = false) (f : s.fetch = some w)
    (halt : isHaltingWord w = true) : runStep s = (some (haltResult (some w) s), s.halt) := by
  simp [runStep, h, f, halt]

theorem runStep_of_executed {s : State} {w : Word} (h : s.halted = false) (f : s.fetch = some w)
    (run : isHaltingWord w ≠ true) : runStep s = (some (fullResult w s), executedState w s) := by
  simp only [runStep, h, f, run]; rfl

/-- Everything the two steps do together: nothing on a halted core; halt, with a halt-marked result; or execute the fetched
word. -/
theorem step_runStep_cases (s : State) :
    (s.halted = true ∧ step s = .next s ∧ runStep s = (none, s)) ∨
    (s.halted = false ∧ step s = .next s.halt ∧ runStep s = (some (haltResult s.fetch s), s.halt)) ∨
    (s.halted = false ∧ ∃ w, s.fetch = some w ∧ step s = .next (executedState w s) ∧
      runStep s = (some (fullResult w s), executedState w s)) := by
  cases h : s.halted
  case true => exact .inl ⟨rfl, step_of_halted h, runStep_of_halted h⟩
  case false =>
    cases f : s.fetch with
    | none => exact .inr (.inl ⟨rfl, step_of_fetch_none h f, runStep_of_fetch_none h f⟩)
    | some w =>
      by_cases halt : isHaltingWord w = true
      · exact .inr (.inl ⟨rfl, (step_of_fetch_some h f).trans (exec_decode_of_halting halt s),
          runStep_of_halting h f halt⟩)
      · exact .inr (.inr ⟨rfl, w, rfl, (step_of_fetch_some h f).trans (exec_decode_eq_executedState halt s),
          runStep_of_executed h f halt⟩)

end Sys2Proof.Machine
end

section
/-! The statements about the ALU and the datapath (40_datapath.md), settled. -/

namespace Sys2Proof.Machine

/-- Settles O9: one lemma for each operation, the comparators of the branches being those of the other operations. -/
theorem aluComputesOperationTable : Obligations.AluComputesOperationTable := fun a b =>
  ⟨alu_add_toNat a b, alu_sub_toNat a b, alu_sll_toNat a b, wordOfBool_slt_toNat a b, wordOfBool_ult_toNat a b,
    fun i _ => alu_xor_getLsbD a b i, alu_srl_toNat a b, alu_sra_toInt a b, fun i _ => alu_or_getLsbD a b i,
    fun i _ => alu_and_getLsbD a b i, wordOfBool_beq_toNat a b, wordOfBool_beq_toNat a b, wordOfBool_slt_toNat a b,
    wordOfBool_ult_toNat a b⟩

/-- Settles O10: a shift sees operand B through its shift amount only, and the amounts are computed. -/
theorem shiftsUseLowFiveBits : Obligations.ShiftsUseLowFiveBits := by
  intro op shift a b
  refine ⟨alu_shift_congr shift a (shiftAmount_and_mask b).symm, ?_, ?_, alu_shift_congr shift a rfl,
    alu_shift_congr shift a rfl, fun shamt _ => alu_shift_congr shift a (shiftAmount_srai shamt)⟩
  · rw [shiftAmount_eq_mod]; omega
  · exact (alu_shift_congr (b := 32) (c := 0) shift a rfl).trans (alu_shift_zero shift a)

/-- Settles O11: each of the six operations is a comparison used as a value. -/
theorem comparisonsReturnZeroOrOne : Obligations.ComparisonsReturnZeroOrOne := by
  intro op comparison a b
  simp only [List.mem_cons, List.not_mem_nil, or_false] at comparison
  obtain rfl | rfl | rfl | rfl | rfl | rfl := comparison <;> exact wordOfBool_eq_zero_or_one _

/-- Settles O23, by what the two steps do together. -/
theorem stepIsTheDatapathTransition : Obligations.StepIsTheDatapathTransition := by
  intro s
  obtain ⟨-, e, r⟩ | ⟨-, e, r⟩ | ⟨-, w, -, e, r⟩ := step_runStep_cases s <;> rw [e, datapathStep, r]

/-- Settles O24, by what the two steps do together. -/
theorem stepIsTotalWithThreeOutcomes : Obligations.StepIsTotalWithThreeOutcomes := by
  intro s
  obtain ⟨h, e, r⟩ | ⟨h, e, r⟩ | ⟨h, w, -, e, r⟩ := step_runStep_cases s
  · exact ⟨_, e, .inl ⟨h, rfl, congrArg Prod.fst r⟩⟩
  · exact ⟨_, e, .inr (.inl ⟨h, rfl, _, congrArg Prod.fst r, rfl⟩)⟩
  · exact ⟨_, e, .inr (.inr ⟨h, (executedState_halted w s).trans h, _, congrArg Prod.fst r, rfl⟩)⟩

end Sys2Proof.Machine
end

section
/-! SUPPORT. The effect of a register-writing instruction, said once from the state it answers, and the two comparisons as
Words. -/

namespace Sys2Proof.Machine

/-! ## The frame of both memories -/

/-- The byte view of instruction memory reads instruction memory, nothing else. -/
theorem State.instrByte_congr {s t : State} (h : s.imem = t.imem) (a : Word) : s.instrByte a = t.instrByte a := by
  simp only [State.instrByte, h]

/-- A register write and a new pc keep the halted flag and every byte of both memories. -/
theorem State.sameHaltedAndMemories_writeReg_retireTo (s : State) (rd : Reg) (v target : Word) :
    s.SameHaltedAndMemories ((s.writeReg rd v).retireTo target) :=
  ⟨s.writeReg_halted rd v, s.dataByte_writeReg rd v, State.instrByte_congr (s.writeReg_imem rd v)⟩

/-! ## Writing one register and going on (41_reg_reg.md template) -/

/-- An outcome that writes `v` to `rd` and goes to the next instruction has the whole effect of a register write. -/
theorem writesRegister_of_next {s : State} {rd : Reg} {v : Word} {result : Word → Prop} {r : Result}
    (e : r = .next ((s.writeReg rd v).retireTo (s.pc + 4))) (h : result v) : WritesRegister s rd result r :=
  ⟨v, _, h, e, fun q => s.x_writeReg rd q v, State.nextInOrder_of_pc (State.retireTo_pc _ _),
    congrArg (· + 1) (s.writeReg_cycle rd v), s.sameHaltedAndMemories_writeReg_retireTo rd v _⟩

/-- The register-register template writes the result of its operation. -/
theorem runRegReg_writesRegister {op : AluOp} {rd rs1 rs2 : Reg} {s : State} {result : Word → Prop}
    (h : result (alu op (s.x rs1) (s.x rs2))) : WritesRegister s rd result (runRegReg op rd rs1 rs2 s) :=
  writesRegister_of_next (congrArg Host.Outcome.next (runRegReg_spec rfl)) h

/-! ## The comparisons as Words (40_datapath.md R84) -/

theorem alu_slt_eq_ite (a b : Word) : alu .slt a b = if a.toInt < b.toInt then 1 else 0 := by
  simp only [alu, wordOfBool, BitVec.slt, decide_eq_true_eq]

theorem alu_sltu_eq_ite (a b : Word) : alu .sltu a b = if a.toNat < b.toNat then 1 else 0 := by
  simp only [alu, wordOfBool, BitVec.ult, decide_eq_true_eq]

end Sys2Proof.Machine
end

section
/-! The statement about the register-register instructions (41_reg_reg.md), settled. -/

namespace Sys2Proof.Machine

/-- Settles O15: each of the ten runs the one template, and its result is what the ALU computes for its operation. -/
theorem registerRegisterInstructionsComplete : Obligations.RegisterRegisterInstructionsComplete := by
  intro s rd rs1 rs2 f7 a b sh
  exact ⟨runRegReg_writesRegister (op := .add) (alu_add_toNat a b),
    runRegReg_writesRegister (op := .sub) (alu_sub_toNat a b),
    runRegReg_writesRegister (op := .sll) (alu_sll_toNat a b),
    runRegReg_writesRegister (op := .slt) (alu_slt_eq_ite a b),
    runRegReg_writesRegister (op := .sltu) (alu_sltu_eq_ite a b),
    runRegReg_writesRegister (op := .xor) fun i _ => alu_xor_getLsbD a b i,
    runRegReg_writesRegister (op := .srl) (alu_srl_toNat a b),
    runRegReg_writesRegister (op := .sra) (alu_sra_toInt a b),
    runRegReg_writesRegister (op := .or) fun i _ => alu_or_getLsbD a b i,
    runRegReg_writesRegister (op := .and) fun i _ => alu_and_getLsbD a b i⟩

end Sys2Proof.Machine
end

section
/-! SUPPORT. The effect of a register-immediate instruction, and the sign-extended immediate as a signed and an unsigned
number, as a shift amount and bit by bit. -/

namespace Sys2Proof.Machine

open Sys2Proof.Laws

/-! ## The sign-extended immediate as operand B (30_encoding.md R58) -/

/-- Read as unsigned, a negative immediate stands modulo 2^32. -/
theorem sext12_toNat (imm : BitVec 12) : ((sext12 imm).toNat : Int) = imm.toInt % 2 ^ 32 := by
  rw [← toInt_sext12, BitVec.toInt_eq_toNat_cond]
  have lt := (sext12 imm).isLt
  split <;> omega

/-- Sign extension keeps the low five bits, the shift amount. -/
theorem sext12_toNat_mod_32 (imm : BitVec 12) : (sext12 imm).toNat % 32 = imm.toNat % 32 := by
  rw [← shiftAmount_eq_mod, shiftAmount_sext12, BitVec.extractLsb'_toNat, Nat.shiftRight_zero]

/-- The bits from 12 on are copies of bit 11. -/
theorem sext12_getLsbD (imm : BitVec 12) {i : Nat} (h : i < 32) :
    (sext12 imm).getLsbD i = if i < 12 then imm.getLsbD i else imm.getLsbD 11 := by
  rw [sext12, BitVec.getLsbD_signExtend, BitVec.msb_eq_getLsbD_last, decide_eq_true h, Bool.true_and]

/-! ## The template (42_reg_imm.md) -/

/-- The register-immediate template writes the result of its operation on the sign-extended immediate. -/
theorem runRegImm_writesRegister {op : AluOp} {rd rs1 : Reg} {imm : BitVec 12} {s : State} {result : Word → Prop}
    (h : result (alu op (s.x rs1) (sext12 imm))) : WritesRegister s rd result (runRegImm op rd rs1 imm s) :=
  writesRegister_of_next (congrArg Host.Outcome.next (runRegImm_spec rfl)) h

/-! ## The operations on a sign-extended immediate (42_reg_imm.md R120 to R128) -/

/-- ADDI adds the signed immediate. -/
theorem alu_add_sext12_toNat (a : Word) (imm : BitVec 12) :
    ((alu .add a (sext12 imm)).toNat : Int) = (a.toNat + imm.toInt) % 2 ^ 32 := by
  rw [alu_add_toNat, Int.natCast_emod, Int.natCast_add, sext12_toNat]
  exact Int.add_emod_emod _ _ _

theorem alu_sll_sext12_toNat (a : Word) (imm : BitVec 12) :
    (alu .sll a (sext12 imm)).toNat = a.toNat * 2 ^ (imm.toNat % 32) % 2 ^ 32 := by
  rw [alu_sll_toNat, sext12_toNat_mod_32]

/-- SLTI compares with the signed immediate. -/
theorem alu_slt_sext12 (a : Word) (imm : BitVec 12) :
    alu .slt a (sext12 imm) = if a.toInt < imm.toInt then 1 else 0 := by
  rw [alu_slt_eq_ite, toInt_sext12]

/-- SLTIU compares with the immediate sign-extended first and read as unsigned then. -/
theorem alu_sltu_sext12 (a : Word) (imm : BitVec 12) :
    alu .sltu a (sext12 imm) = if (a.toNat : Int) < imm.toInt % 2 ^ 32 then 1 else 0 := by
  simp only [alu_sltu_eq_ite, ← sext12_toNat, Int.ofNat_lt]

theorem alu_srl_sext12_toNat (a : Word) (imm : BitVec 12) :
    (alu .srl a (sext12 imm)).toNat = a.toNat / 2 ^ (imm.toNat % 32) := by
  rw [alu_srl_toNat, sext12_toNat_mod_32]

theorem alu_sra_sext12_toInt (a : Word) (imm : BitVec 12) :
    (alu .sra a (sext12 imm)).toInt = a.toInt / 2 ^ (imm.toNat % 32) := by
  rw [alu_sra_toInt, sext12_toNat_mod_32]

end Sys2Proof.Machine
end

section
/-! The statement about the register-immediate instructions (42_reg_imm.md), settled. -/

namespace Sys2Proof.Machine

/-- Settles O16: each of the nine runs the one template, and its result is what the ALU computes for its operation on the
sign-extended immediate. -/
theorem registerImmediateInstructionsComplete : Obligations.RegisterImmediateInstructionsComplete := by
  intro s rd rs1 imm a sh immBit
  have bits : ∀ i, i < 32 → (sext12 imm).getLsbD i = immBit i := fun _ h => sext12_getLsbD imm h
  exact ⟨runRegImm_writesRegister (op := .add) (alu_add_sext12_toNat a imm),
    runRegImm_writesRegister (op := .sll) (alu_sll_sext12_toNat a imm),
    runRegImm_writesRegister (op := .slt) (alu_slt_sext12 a imm),
    runRegImm_writesRegister (op := .sltu) (alu_sltu_sext12 a imm),
    runRegImm_writesRegister (op := .xor) fun i h => bits i h ▸ alu_xor_getLsbD a (sext12 imm) i,
    runRegImm_writesRegister (op := .srl) (alu_srl_sext12_toNat a imm),
    runRegImm_writesRegister (op := .sra) (alu_sra_sext12_toInt a imm),
    runRegImm_writesRegister (op := .or) fun i h => bits i h ▸ alu_or_getLsbD a (sext12 imm) i,
    runRegImm_writesRegister (op := .and) fun i h => bits i h ▸ alu_and_getLsbD a (sext12 imm) i⟩

end Sys2Proof.Machine
end

section
/-! SUPPORT. The effective address and the bytes of a stored cell in numbers, and a data memory cell along a run that does not
store to it. -/

namespace Sys2Proof.Machine

open Sys2Proof.Laws

/-! ## The effective address (20_memory.md R46) -/

/-- The base plus the signed displacement, modulo 2^32. -/
theorem State.effectiveAddress_toNat (s : State) (rs1 : Reg) (imm : BitVec 12) :
    ((s.effectiveAddress rs1 imm).toNat : Int) = ((s.x rs1).toNat + imm.toInt) % 2 ^ 32 :=
  alu_add_sext12_toNat (s.x rs1) imm

/-- Two addresses name the same cell when their bits [6:2] are the same number. -/
theorem dataCell_eq_iff (a b : Word) : dataCell a = dataCell b ↔ a.toNat / 4 % 32 = b.toNat / 4 % 32 := by
  rw [← BitVec.toNat_inj, dataCell_toNat, dataCell_toNat]

/-! ## The bytes of a stored cell (20_memory.md R38) -/

/-- Every byte of the stored cell is the byte of the stored Word that the low two address bits name. -/
theorem State.dataByte_memWrite_eq (s : State) (a b v : Word) (h : dataCell b = dataCell a) :
    (s.memWrite a v).dataByte b = v.extractLsb' (8 * (b.toNat % 4)) 8 := by
  rw [State.dataByte, State.memRead_memWrite, if_pos h, byteOfWord, BitVec.extractLsb'_toNat, Nat.shiftRight_zero]

/-! ## A cell that is not stored to (43_load_store.md R132) -/

/-- A step that does not store to a cell leaves it. -/
theorem step_cell_of_not_storesTo {s t : State} {k : DataCell} (h : step s = .next t) (no : ¬ s.StoresTo k) :
    t.cell k = s.cell k := by
  cases hs : s.halted
  case true =>
    obtain rfl := Host.Outcome.next.inj (h.symm.trans (step_of_halted hs))
    rfl
  case false =>
    cases f : s.fetch with
    | none =>
      obtain rfl := Host.Outcome.next.inj (h.symm.trans (step_of_fetch_none hs f))
      exact s.cell_halt k
    | some w =>
      rw [step_of_fetch_some hs f] at h
      by_cases op : opcodeOf w = 0x23
      · rw [decode_store op] at h
        obtain rfl := execSw_spec h
        exact (s.cell_setCell _ k _).trans (if_neg fun same => no ⟨hs, w, f, op, same.symm⟩)
      · exact State.cell_congr (exec_decode_dmem op h) k

/-- A run is its first step, which always answers, and the run from there. -/
theorem core_run_succ (n : Nat) (s : State) : Sys2Proof.core.run (n + 1) s = Sys2Proof.core.run n s.stepped := by
  have first : Sys2Proof.core.step s = .next s.stepped := step_stepped s
  simp only [Host.Core.run, first]

/-- A run none of whose steps stores to a cell leaves it. -/
theorem core_run_cell_of_not_storesTo {k : DataCell} {n : Nat} {s t : State} (h : Sys2Proof.core.run n s = .next t)
    (no : ∀ m, m < n → ∀ u, Sys2Proof.core.run m s = .next u → ¬ State.StoresTo u k) : t.cell k = s.cell k := by
  induction n generalizing s with
  | zero =>
    obtain rfl := Host.Outcome.next.inj h
    rfl
  | succ n ih =>
    rw [core_run_succ] at h
    have rest : t.cell k = s.stepped.cell k :=
      ih h fun m lt u run => no (m + 1) (Nat.succ_lt_succ lt) u ((core_run_succ m s).trans run)
    exact rest.trans (step_cell_of_not_storesTo (step_stepped s) (no 0 n.succ_pos s rfl))

end Sys2Proof.Machine
end

section
/-! The statements about load and store (43_load_store.md), settled. -/

namespace Sys2Proof.Machine

/-- Settles O33: the store puts the Word in its cell, the run between leaves that cell, and the load reads it. -/
theorem loadReturnsLatestStore : Obligations.LoadReturnsLatestStore := by
  intro s s1 s2 s3 n src base rd base' imm imm' f3 f3' store run no load same hrd
  obtain rfl := execSw_spec store
  obtain rfl := execLw_spec load
  have stored : ((s.memWrite (s.effectiveAddress base imm) (s.x src)).retireTo (s.pc + 4)).cell
      (dataCell (s.effectiveAddress base imm)) = s.x src := (s.cell_setCell _ _ _).trans (if_pos rfl)
  rw [State.x_retireTo, State.x_writeReg, if_pos ⟨rfl, hrd⟩, State.memRead, same,
    core_run_cell_of_not_storesTo run no, stored]

/-- Settles O17: the effect of a register write, whose value is the cell of the effective address. -/
theorem loadWordCompletes : Obligations.LoadWordCompletes := by
  intro s rd rs1 imm f3 addr
  obtain ⟨read, -⟩ := dataAddressesSelectCells s addr 0
  exact ⟨s.effectiveAddress_toNat rs1 imm, writesRegister_of_next (congrArg Host.Outcome.next (execLw_spec rfl)) read⟩

/-- Settles O18: a byte is in the stored cell or outside it, and the store and the new pc leave everything else. -/
theorem storeWordCompletes : Obligations.StoreWordCompletes := by
  intro s rs2 rs1 imm f3 addr
  refine ⟨s.effectiveAddress_toNat rs1 imm, _, congrArg Host.Outcome.next (execSw_spec rfl), ?_, fun a inside => ?_,
    fun a outside => ?_, fun q => rfl, State.nextInOrder_of_pc rfl, rfl, rfl, State.instrByte_congr rfl⟩
  · exact (s.memRead_memWrite addr addr (s.x rs2)).trans (if_pos rfl)
  · exact s.dataByte_memWrite_eq addr a (s.x rs2) ((dataCell_eq_iff a addr).mpr inside)
  · exact s.dataByte_memWrite_ne addr a (s.x rs2) (mt (dataCell_eq_iff a addr).mp outside)

end Sys2Proof.Machine
end

section
/-! SUPPORT. The effect of a branch, said once for the template, and bit 0 of a comparator as the rule's comparison. -/

namespace Sys2Proof.Machine

/-! ## The template (44_branch.md) -/

/-- The template branches on any condition that says when bit 0 of the comparator differs from the polarity. -/
theorem runBranch_branches {cmp : AluOp} {invert : Bool} {rs1 rs2 : Reg} {offset : BitVec 13} {s : State} {taken : Prop}
    (h : ((alu cmp (s.x rs1) (s.x rs2)).getLsbD 0 ^^ invert) = true ↔ taken) :
    Branches s offset taken (runBranch cmp invert rs1 rs2 offset s) := by
  refine ⟨_, congrArg Host.Outcome.next (runBranch_spec rfl), fun holds => ?_, fun fails => ?_, s.x_retireTo _, rfl, rfl,
    fun _ => rfl, State.instrByte_congr rfl⟩
  · rw [State.retireTo_pc, if_pos (h.mpr holds), alignPc_toNat, ← State.branchTarget_toNat]; rfl
  · exact State.nextInOrder_of_pc (congrArg alignPc (if_neg (mt h.mp fails)))

/-! ## The two polarities of a comparator (40_datapath.md R90) -/

/-- A comparator used as it is: taken when its comparison holds. -/
theorem runBranch_branches_of_bit0 {cmp : AluOp} {rs1 rs2 : Reg} {offset : BitVec 13} {s : State} {taken : Prop}
    (h : (alu cmp (s.x rs1) (s.x rs2)).getLsbD 0 = true ↔ taken) :
    Branches s offset taken (runBranch cmp false rs1 rs2 offset s) :=
  runBranch_branches (by rw [Bool.xor_false, h])

/-- A comparator inverted: taken when its comparison fails. -/
theorem runBranch_branches_of_not_bit0 {cmp : AluOp} {rs1 rs2 : Reg} {offset : BitVec 13} {s : State} {taken : Prop}
    (h : ¬ (alu cmp (s.x rs1) (s.x rs2)).getLsbD 0 = true ↔ taken) :
    Branches s offset taken (runBranch cmp true rs1 rs2 offset s) :=
  runBranch_branches (by rw [Bool.xor_true, Bool.not_eq_true', ← Bool.not_eq_true, h])

/-! ## The comparators (40_datapath.md R84) -/

theorem alu_beqCmp_bit0_iff (a b : Word) : (alu .beqCmp a b).getLsbD 0 = true ↔ a = b := by simp

theorem alu_bltCmp_bit0_iff (a b : Word) : (alu .bltCmp a b).getLsbD 0 = true ↔ a.toInt < b.toInt := by simp

theorem alu_bltuCmp_bit0_iff (a b : Word) : (alu .bltuCmp a b).getLsbD 0 = true ↔ a.toNat < b.toNat := by simp

end Sys2Proof.Machine
end

section
/-! The statement about the branches (44_branch.md), settled. -/

namespace Sys2Proof.Machine

/-- Settles O19: each of the six runs the one template, three on a comparator as it is and three on its inverse. -/
theorem branchInstructionsComplete : Obligations.BranchInstructionsComplete := by
  intro s rs1 rs2 offset a b
  exact ⟨runBranch_branches_of_bit0 (alu_beqCmp_bit0_iff a b),
    runBranch_branches_of_not_bit0 (not_congr (alu_beqCmp_bit0_iff a b)),
    runBranch_branches_of_bit0 (alu_bltCmp_bit0_iff a b),
    runBranch_branches_of_not_bit0 ((not_congr (alu_bltCmp_bit0_iff a b)).trans Int.not_lt),
    runBranch_branches_of_bit0 (alu_bltuCmp_bit0_iff a b),
    runBranch_branches_of_not_bit0 ((not_congr (alu_bltuCmp_bit0_iff a b)).trans Nat.not_lt)⟩

end Sys2Proof.Machine
end

section
/-! SUPPORT. The effect of an instruction that does no more than go to the next one, said once from the state it answers. -/

namespace Sys2Proof.Machine

/-- An outcome that goes to the next instruction and writes nothing has the whole effect of a no-op. -/
theorem onlyAdvances_of_next {s : State} {r : Result} (e : r = .next (s.retireTo (s.pc + 4))) : OnlyAdvances s r :=
  ⟨_, e, s.x_retireTo _, State.nextInOrder_of_pc (State.retireTo_pc _ _), State.retireTo_cycle _ _,
    State.retireTo_halted _ _, s.dataByte_retireTo _, State.instrByte_congr (State.retireTo_imem _ _)⟩

/-- The no-op of 45_halt_and_unrecognised.md R150. -/
theorem runNoOp_onlyAdvances (s : State) : OnlyAdvances s (runNoOp s) :=
  onlyAdvances_of_next (congrArg Host.Outcome.next (runNoOp_spec rfl))

end Sys2Proof.Machine
end

section
/-! The statements about the halting and the unexecuted instructions (45_halt_and_unrecognised.md), settled. -/

namespace Sys2Proof.Machine

/-- Settles O20: each of the three is the `halt` primitive. -/
theorem haltingInstructionsOnlySetHalted : Obligations.HaltingInstructionsOnlySetHalted := by
  intro s i hi
  have halts : exec i s = .next s.halt := by
    simp only [List.mem_cons, List.not_mem_nil, or_false] at hi
    obtain rfl | rfl | rfl := hi <;> rfl
  exact halts

/-- Settles O21: each of the five runs the one no-op, whatever its operands. -/
theorem unexecutedInstructionsOnlyAdvance : Obligations.UnexecutedInstructionsOnlyAdvance := by
  intro s
  have noOp := runNoOp_onlyAdvances s
  exact ⟨fun _ _ => noOp, fun _ _ => noOp, fun _ _ _ => noOp, fun _ _ _ => noOp, fun _ _ _ _ _ _ => noOp⟩

end Sys2Proof.Machine
end

section
/-! SUPPORT. Register tokens as numerals, what the handlers of an instruction line do with their operands, and that their
words are words of assembler mnemonics. -/

namespace Sys2Proof.Machine

open Sys2Proof.Laws

/-! ## Register tokens (46_assembler.md R168) -/

/-- A decimal digit is the digit of its value, a number below ten. -/
theorem isDecimalDigit_eq_digitChar {c : Char} (h : isDecimalDigit c = true) :
    c = Nat.digitChar (digitValue c) ∧ digitValue c < 10 := by
  have value : digitValue c = c.toNat - 48 := if_pos h
  simp only [isDecimalDigit, Bool.and_eq_true, decide_eq_true_eq] at h
  obtain ⟨lo, hi⟩ : 48 ≤ c.toNat ∧ c.toNat ≤ 57 := h
  have digit : ∀ n, 48 ≤ n → n ≤ 57 → Char.ofNat n = Nat.digitChar (n - 48) := by
    intro n lo hi
    interval_cases n <;> rfl
  rw [value]
  exact ⟨c.ofNat_toNat.symm.trans (digit _ lo hi), by omega⟩

/-- The numeral of a number below ten is its digit. -/
theorem repr_digit {n : Nat} (h : n < 10) : (Nat.repr n).toList = [Nat.digitChar n] := by
  rw [Nat.toList_repr, Nat.toDigits_of_lt_base h]

/-- The numeral of a number from ten to ninety-nine is its two digits. -/
theorem repr_two_digits {k n : Nat} (pos : 0 < k) (hk : k < 10) (hn : n < 10) :
    (Nat.repr (10 * k + n)).toList = [Nat.digitChar k, Nat.digitChar n] := by
  rw [Nat.toList_repr, ← Nat.toDigits_append_toDigits (by decide) pos hn, Nat.toDigits_of_lt_base hk,
    Nat.toDigits_of_lt_base hn, List.singleton_append]

theorem parseRegister_repr (r : Reg) : parseRegister ('x' :: (Nat.repr r.toNat).toList) = some r := by
  rw [Nat.toList_repr]
  revert r; decide

/-- The first of the two digits of a register token is that of its value, and the two make a register number. -/
theorem registerTens_digit_and_range {d e : Char} (small : digitValue e < 10)
    (h : d = '1' ∨ d = '2' ∨ d = '3' ∧ (e = '0' ∨ e = '1')) :
    d = Nat.digitChar (digitValue d) ∧ 0 < digitValue d ∧ 10 * digitValue d + digitValue e < 32 := by
  have one : digitValue '1' = 1 := by decide
  have two : digitValue '2' = 2 := by decide
  obtain rfl | rfl | ⟨rfl, rfl | rfl⟩ := h
  · exact ⟨rfl, by omega, by omega⟩
  · exact ⟨rfl, by omega, by omega⟩
  · decide
  · decide

theorem eq_repr_of_parseRegister {t : Text} {r : Reg} (h : parseRegister t = some r) :
    t = 'x' :: (Nat.repr r.toNat).toList := by
  unfold parseRegister at h
  split at h
  case h_1 d =>
    split_ifs at h with digit
    obtain ⟨same, small⟩ := isDecimalDigit_eq_digitChar digit
    obtain rfl := Option.some.inj h
    rw [BitVec.toNat_ofNat, Nat.mod_eq_of_lt (by omega), repr_digit small, ← same]
  case h_2 d e =>
    split_ifs at h with digits
    simp only [Bool.and_eq_true, Bool.or_eq_true, beq_iff_eq, or_assoc] at digits
    obtain ⟨digit, tens⟩ := digits
    obtain ⟨same, small⟩ := isDecimalDigit_eq_digitChar digit
    obtain ⟨sameTens, pos, inRange⟩ := registerTens_digit_and_range small tens
    obtain rfl := Option.some.inj h
    rw [BitVec.toNat_ofNat, Nat.mod_eq_of_lt inRange, repr_two_digits pos (by omega) small, ← same, ← sameTens]
  case h_3 => cases h

/-! ## The words of the handlers (46_assembler.md R169, R171 to R177) -/

/-- The word decodes to an instruction of one of the assembler's mnemonics. -/
def IsAssemblerWord (w : Word) : Prop := (decode w).mnemonic ∈ asmForms.map Prod.fst

theorem asmForms_mnemonics : asmForms.map Prod.fst =
    ["add", "sub", "sll", "xor", "srl", "sra", "or", "and", "addi", "slli", "slti", "xori", "srli", "srai", "ori", "andi",
     "lw", "sw", "lui", "jal", "beq", "bne", "blt", "bge", "bltu", "bgeu"] := rfl

/-- The form's funct3 selects, within its opcode, an instruction of an assembler mnemonic: not slt, sltu or sltiu, which the
assembler does not know, and none of the two rows of R154. -/
def AsmForm.selectsMnemonic : AsmForm → Bool
  | .regReg _ funct3 => BitVec.ofInt 3 funct3 ≠ 0b010 ∧ BitVec.ofInt 3 funct3 ≠ 0b011
  | .regImm funct3 => BitVec.ofInt 3 funct3 ≠ 0b011
  | .branch funct3 => BitVec.ofInt 3 funct3 ≠ 0b010 ∧ BitVec.ofInt 3 funct3 ≠ 0b011
  | .srai | .lw | .sw | .lui | .jal => true

theorem asmForms_selectsMnemonic : ∀ form ∈ asmForms.map Prod.snd, form.selectsMnemonic = true := by decide

theorem isAssemblerWord_regReg {w : Word} (op : opcodeOf w = 0x33) (ne2 : funct3Of w ≠ 0b010)
    (ne3 : funct3Of w ≠ 0b011) : IsAssemblerWord w := by
  rw [IsAssemblerWord, decode_regReg op, decodeRegReg, if_neg ne2, if_neg ne3]
  split_ifs <;> simp [Instr.mnemonic, asmForms_mnemonics]

theorem isAssemblerWord_regImm {w : Word} (op : opcodeOf w = 0x13) (ne3 : funct3Of w ≠ 0b011) : IsAssemblerWord w := by
  rw [IsAssemblerWord, decode_regImm op, decodeRegImm, if_neg ne3]
  split_ifs <;> simp [Instr.mnemonic, asmForms_mnemonics]

theorem isAssemblerWord_branch {w : Word} (op : opcodeOf w = 0x63) (ne2 : funct3Of w ≠ 0b010)
    (ne3 : funct3Of w ≠ 0b011) : IsAssemblerWord w := by
  rw [IsAssemblerWord, decode_branch op, decodeBranch, if_neg ne2, if_neg ne3]
  split_ifs <;> simp [Instr.mnemonic, asmForms_mnemonics]

theorem isAssemblerWord_load {w : Word} (op : opcodeOf w = 0x03) : IsAssemblerWord w := by
  rw [IsAssemblerWord, decode_load op, Instr.mnemonic]; decide

theorem isAssemblerWord_store {w : Word} (op : opcodeOf w = 0x23) : IsAssemblerWord w := by
  rw [IsAssemblerWord, decode_store op, Instr.mnemonic]; decide

theorem isAssemblerWord_lui {w : Word} (op : opcodeOf w = 0x37) : IsAssemblerWord w := by
  rw [IsAssemblerWord, decode_lui op, Instr.mnemonic]; decide

theorem isAssemblerWord_jal {w : Word} (op : opcodeOf w = 0x6F) : IsAssemblerWord w := by
  rw [IsAssemblerWord, decode_jal op, Instr.mnemonic]; decide

/-- Every Word the computation answers has the property. -/
def OnlyAnswers (P : Word → Prop) (x : Except AsmError Word) : Prop := ∀ w, x = .ok w → P w

theorem OnlyAnswers.pure {P : Word → Prop} {w : Word} (h : P w) : OnlyAnswers P (pure w) :=
  fun _ same => Except.ok.inj same ▸ h

theorem OnlyAnswers.bind {P : Word → Prop} {α : Type} {x : Except AsmError α} {f : α → Except AsmError Word}
    (h : ∀ a, OnlyAnswers P (f a)) : OnlyAnswers P (x >>= f) := by
  cases x with
  | error e => exact fun _ impossible => nomatch impossible
  | ok a => exact h a

/-- Two operands are read before a handler answers. -/
theorem OnlyAnswers.bind2 {P : Word → Prop} {α β : Type} {x : Except AsmError α} {y : Except AsmError β}
    {f : α → β → Word} (h : ∀ a b, P (f a b)) : OnlyAnswers P (do let a ← x; let b ← y; return f a b) :=
  .bind fun a => .bind fun b => .pure (h a b)

/-- Three operands are read before a handler answers. -/
theorem OnlyAnswers.bind3 {P : Word → Prop} {α β γ : Type} {x : Except AsmError α} {y : Except AsmError β}
    {z : Except AsmError γ} {f : α → β → γ → Word} (h : ∀ a b c, P (f a b c)) :
    OnlyAnswers P (do let a ← x; let b ← y; let c ← z; return f a b c) :=
  .bind fun a => .bind2 (h a)

/-- A load or store line of fewer than three operands reads none of them (R173; decision D24). -/
theorem assembleForm_of_short {labels : LabelTable} {pc : Nat} {m : Text} {ops : List Text} {form : AsmForm}
    (h : (form = .lw ∨ form = .sw) ∧ ops.length < 3) :
    assembleForm labels pc m ops form = .error (.unsupportedAddressing m) := by
  obtain ⟨rfl | rfl, short⟩ := h
  · exact if_pos short
  · exact if_pos short

theorem assembleForm_lw {ops : List Text} (h : ¬ ops.length < 3) (labels : LabelTable) (pc : Nat) (m : Text) :
    assembleForm labels pc m ops .lw = (do
      let rd ← needRegister m ops[0]?
      let imm ← needImmediate m ops[1]?
      let rs1 ← needRegister m ops[2]?
      return encodeI imm rs1.toNat 0b010 rd.toNat 0x03) := if_neg h

theorem assembleForm_sw {ops : List Text} (h : ¬ ops.length < 3) (labels : LabelTable) (pc : Nat) (m : Text) :
    assembleForm labels pc m ops .sw = (do
      let rs2 ← needRegister m ops[0]?
      let imm ← needImmediate m ops[1]?
      let rs1 ← needRegister m ops[2]?
      return encodeS imm rs2.toNat rs1.toNat 0b010 0x23) := if_neg h

/-- Whatever the operands, a handler whose funct3 selects a mnemonic answers only words of assembler mnemonics. -/
theorem assembleForm_onlyAnswers {form : AsmForm} (h : form.selectsMnemonic = true) (labels : LabelTable) (pc : Nat)
    (m : Text) (ops : List Text) : OnlyAnswers IsAssemblerWord (assembleForm labels pc m ops form) := by
  by_cases short : (form = .lw ∨ form = .sw) ∧ ops.length < 3
  · exact fun _ answer => nomatch (assembleForm_of_short short).symm.trans answer
  cases form with
  | regReg f7 f3 =>
    obtain ⟨ne2, ne3⟩ := of_decide_eq_true h
    exact .bind3 fun rd rs1 rs2 =>
      isAssemblerWord_regReg (opcodeOf_packR ..) (funct3Of_packR .. ▸ ne2) (funct3Of_packR .. ▸ ne3)
  | regImm f3 =>
    exact .bind3 fun rd rs1 imm =>
      isAssemblerWord_regImm (opcodeOf_packI ..) (funct3Of_packI .. ▸ of_decide_eq_true h)
  | srai =>
    exact .bind3 fun rd rs1 imm =>
      isAssemblerWord_regImm (opcodeOf_packI ..) (funct3Of_packI .. ▸ by decide)
  | lw =>
    rw [assembleForm_lw fun few => short ⟨.inl rfl, few⟩]
    exact .bind3 fun rd imm rs1 => isAssemblerWord_load (opcodeOf_packI ..)
  | sw =>
    rw [assembleForm_sw fun few => short ⟨.inr rfl, few⟩]
    exact .bind3 fun rs2 imm rs1 => isAssemblerWord_store (opcodeOf_packS ..)
  | branch f3 =>
    obtain ⟨ne2, ne3⟩ := of_decide_eq_true h
    exact .bind3 fun rs1 rs2 address =>
      isAssemblerWord_branch (opcodeOf_packB ..) (funct3Of_packB .. ▸ ne2) (funct3Of_packB .. ▸ ne3)
  | lui => exact .bind2 fun rd imm => isAssemblerWord_lui (opcodeOf_packU ..)
  | jal => exact .bind2 fun rd address => isAssemblerWord_jal (opcodeOf_packJ ..)

/-! ## The first operand that fails (46_assembler.md R167; decision D19) -/

/-- The computation reads operand tokens as the positions ask: the first position that does not accept its token aborts it
with the error that names the token. -/
def AbortsAtFirstFailure (labels : LabelTable) (m : Text) (kinds : List OperandKind) (token : Nat → Option Text)
    {α : Type} (x : Except AsmError α) : Prop :=
  ∀ (k : Nat) (kind : OperandKind), kinds[k]? = some kind → kind.accepts labels (token k) = false →
    (∀ (j : Nat) (earlier : OperandKind), j < k → kinds[j]? = some earlier → earlier.accepts labels (token j) = true) →
    x = .error (kind.error m (token k))

namespace AbortsAtFirstFailure

variable {labels : LabelTable} {m : Text} {kinds : List OperandKind} {token : Nat → Option Text} {β : Type}

theorem nil {x : Except AsmError β} : AbortsAtFirstFailure labels m [] token x :=
  fun _ _ position => nomatch position

/-- One position read before the others, given what its reading answers for an accepted token and for one that is not. -/
theorem bind {kind : OperandKind} {α : Type} {x : Except AsmError α} {f : α → Except AsmError β}
    (accepted : kind.accepts labels (token 0) = true → ∃ a, x = .ok a)
    (failed : kind.accepts labels (token 0) = false → x = .error (kind.error m (token 0)))
    (rest : ∀ a, AbortsAtFirstFailure labels m kinds (fun k => token (k + 1)) (f a)) :
    AbortsAtFirstFailure labels m (kind :: kinds) token (x >>= f) := by
  intro k failing position fails earlier
  cases k with
  | zero =>
    obtain rfl := Option.some.inj position
    rw [failed fails]; rfl
  | succ k =>
    obtain ⟨a, rfl⟩ := accepted (earlier 0 kind k.succ_pos rfl)
    exact rest a k failing position fails fun j other before => earlier (j + 1) other (Nat.succ_lt_succ before)

theorem register {f : Reg → Except AsmError β}
    (rest : ∀ r, AbortsAtFirstFailure labels m kinds (fun k => token (k + 1)) (f r)) :
    AbortsAtFirstFailure labels m (.register :: kinds) token (needRegister m (token 0) >>= f) :=
  .bind needRegister_of_accepts needRegister_of_not_accepts rest

theorem immediate {f : Int → Except AsmError β}
    (rest : ∀ v, AbortsAtFirstFailure labels m kinds (fun k => token (k + 1)) (f v)) :
    AbortsAtFirstFailure labels m (.immediate :: kinds) token (needImmediate m (token 0) >>= f) :=
  .bind needImmediate_of_accepts needImmediate_of_not_accepts rest

theorem label {f : Nat → Except AsmError β}
    (rest : ∀ address, AbortsAtFirstFailure labels m kinds (fun k => token (k + 1)) (f address)) :
    AbortsAtFirstFailure labels m (.label :: kinds) token (needLabel labels m (token 0) >>= f) :=
  .bind needLabel_of_accepts needLabel_of_not_accepts rest

end AbortsAtFirstFailure

/-- Every handler reads its operand positions left to right, once a load or store has three of them. -/
theorem assembleForm_abortsAtFirstFailure {ops : List Text} {form : AsmForm}
    (long : ¬ ((form = .lw ∨ form = .sw) ∧ ops.length < 3)) (labels : LabelTable) (pc : Nat) (m : Text) :
    AbortsAtFirstFailure labels m form.operandKinds (fun k => ops[k]?) (assembleForm labels pc m ops form) := by
  cases form with
  | regReg f7 f3 => exact .register fun _ => .register fun _ => .register fun _ => .nil
  | regImm f3 => exact .register fun _ => .register fun _ => .immediate fun _ => .nil
  | srai => exact .register fun _ => .register fun _ => .immediate fun _ => .nil
  | lw =>
    rw [assembleForm_lw fun few => long ⟨.inl rfl, few⟩]
    exact .register fun _ => .immediate fun _ => .register fun _ => .nil
  | sw =>
    rw [assembleForm_sw fun few => long ⟨.inr rfl, few⟩]
    exact .register fun _ => .immediate fun _ => .register fun _ => .nil
  | branch f3 => exact .register fun _ => .register fun _ => .label fun _ => .nil
  | lui => exact .register fun _ => .immediate fun _ => .nil
  | jal => exact .register fun _ => .label fun _ => .nil

/-! ## Branches (46_assembler.md R175, R184) -/

/-- A branch line with register tokens is assembled from the reading of its label. -/
theorem assembleForm_branch {t1 t2 name : Text} {rs1 rs2 : Reg} (h1 : parseRegister t1 = some rs1)
    (h2 : parseRegister t2 = some rs2) (labels : LabelTable) (pc f3 : Nat) (m : Text) :
    assembleForm labels pc m [t1, t2, name] (.branch f3) = (do
      let address ← needLabel labels m (some name)
      return encodeB ((address : Int) - pc) rs2.toNat rs1.toNat f3 0x63) := by
  have read1 : needRegister m (some t1) = .ok rs1 := by rw [needRegister, Option.bind_some, h1]
  have read2 : needRegister m (some t2) = .ok rs2 := by rw [needRegister, Option.bind_some, h2]
  simp only [assembleForm, List.getElem?_cons_zero, List.getElem?_cons_succ, read1, read2]
  rfl

/-- An even offset within 13 signed bits is the decoded immediate of its branch word. -/
theorem decodeFields_encodeB_imm {i : Int} (even : i % 2 = 0) (lo : -4096 ≤ i) (hi : i ≤ 4094) (rs2 rs1 f3 : Int) :
    (decodeFields (encodeB i rs2 rs1 f3 0x63)).imm.toInt = i := by
  have inRange : i ≤ 4095 := by omega
  simp [encodeB, tagOf, immOf, even, toInt_sext13_ofInt lo inRange]

end Sys2Proof.Machine
end

section
/-! SUPPORT. What the two passes of the assembler do with a line, said once: pass 1 binds label names, pass 2 gives one Word
or one warning for each instruction line, and the first error aborts both. -/

namespace Sys2Proof.Machine

/-! ## Pass 1 (46_assembler.md R164, R165) -/

theorem isSome_lookup_iff {table : LabelTable} {name : Text} :
    (table.lookup name).isSome = true ↔ name ∈ table.map Prod.fst := by
  simp [List.lookup_isSome_iff]

/-- Pass 1 takes a label line when its name is new, and goes on with the name bound to the assembler PC. -/
theorem collectLabels_label_ok {name : Text} {rest : List Line} {pc : Nat} {table out : LabelTable}
    (h : collectLabels (.label name :: rest) pc table = .ok out) :
    table.lookup name = none ∧ collectLabels rest pc (table ++ [(name, pc)]) = .ok out := by
  rw [collectLabels] at h
  split_ifs at h with defined
  exact ⟨Option.not_isSome_iff_eq_none.mp defined, h⟩

/-- When pass 1 succeeds, the names it started from and those of the lines are all different. -/
theorem collectLabels_ok_nodup {lines : List Line} {pc : Nat} {table out : LabelTable}
    (h : collectLabels lines pc table = .ok out) (nodup : (table.map Prod.fst).Nodup) :
    (table.map Prod.fst ++ labelNames lines).Nodup := by
  induction lines generalizing pc table with
  | nil => simpa [labelNames] using nodup
  | cons first rest ih =>
    cases first with
    | label name =>
      obtain ⟨new, h⟩ := collectLabels_label_ok h
      have fresh : name ∉ table.map Prod.fst := fun mem => by simpa [new] using isSome_lookup_iff.mpr mem
      have bound : ((table ++ [(name, pc)]).map Prod.fst).Nodup := by
        rw [List.map_append]
        exact nodup.append (List.nodup_singleton name) (by simpa using fresh)
      simpa [labelNames] using ih h bound
    | instruction line => exact ih h nodup
    | blank => exact ih h nodup
    | comment => exact ih h nodup

/-- When pass 1 fails, its error names a label that stands twice among the names it started from and those of the lines. -/
theorem collectLabels_error {lines : List Line} {pc : Nat} {table : LabelTable} {e : AsmError}
    (h : collectLabels lines pc table = .error e) :
    ∃ name, 2 ≤ (table.map Prod.fst ++ labelNames lines).count name ∧ e = .duplicateLabel name := by
  induction lines generalizing pc table with
  | nil => cases h
  | cons first rest ih =>
    cases first with
    | label name =>
      rw [collectLabels] at h
      split_ifs at h with defined
      · have before : 0 < (table.map Prod.fst).count name := List.count_pos_iff.mpr (isSome_lookup_iff.mp defined)
        refine ⟨name, ?_, (Except.error.inj h).symm⟩
        rw [List.count_append, labelNames, List.count_cons_self]
        omega
      · simpa [labelNames] using ih h
    | instruction line => exact ih h
    | blank => exact ih h
    | comment => exact ih h

/-- Pass 1 leaves a binding as it is. -/
theorem collectLabels_ok_lookup {lines : List Line} {pc : Nat} {table out : LabelTable} {name : Text} {address : Nat}
    (h : collectLabels lines pc table = .ok out) (found : table.lookup name = some address) :
    out.lookup name = some address := by
  induction lines generalizing pc table with
  | nil =>
    obtain rfl := Except.ok.inj h
    exact found
  | cons first rest ih =>
    cases first with
    | label other => exact ih (collectLabels_label_ok h).2 (by rw [List.lookup_append, found, Option.some_or])
    | instruction line => exact ih h found
    | blank => exact ih h found
    | comment => exact ih h found

/-- Pass 1 binds a label line's name to the assembler PC it started from plus four for each instruction line before it. -/
theorem collectLabels_ok_lookup_label {before after : List Line} {pc : Nat} {table out : LabelTable} {name : Text}
    (h : collectLabels (before ++ .label name :: after) pc table = .ok out) :
    out.lookup name = some (pc + 4 * before.countP Line.isInstruction) := by
  induction before generalizing pc table with
  | nil =>
    obtain ⟨new, h⟩ := collectLabels_label_ok h
    exact collectLabels_ok_lookup h (by rw [List.lookup_append, new, Option.none_or, List.lookup_cons_self]; rfl)
  | cons first rest ih =>
    cases first with
    | label other => exact ih (collectLabels_label_ok h).2
    | instruction line =>
      rw [ih (pc := pc + 4) h, List.countP_cons_of_pos rfl]
      congr 1; omega
    | blank => exact ih (pc := pc) h
    | comment => exact ih (pc := pc) h

/-! ## Pass 2 (46_assembler.md R166, R178, R180, R181) -/

/-- A mnemonic that the table finds has a row of the table. -/
theorem mem_asmForms_of_lookup {m : Text} {form : AsmForm} (h : asmTable.lookup m = some form) :
    form ∈ asmForms.map Prod.snd := by
  obtain ⟨before, after, split, -⟩ := List.lookup_eq_some_iff.mp h
  have row : (m, form) ∈ asmTable := split ▸ by simp
  obtain ⟨r, mem, same⟩ := List.mem_map.mp row
  exact List.mem_map.mpr ⟨r, mem, congrArg Prod.snd same⟩

theorem assembleTokens_cons {m : Text} {form : AsmForm} (known : asmTable.lookup m = some form) (labels : LabelTable)
    (pc : Nat) (ops : List Text) : assembleTokens labels pc (m :: ops) = (assembleForm labels pc m ops form).map some := by
  rw [assembleTokens, known]

/-- An instruction line that becomes a Word has a mnemonic of the table, whose handler answers that Word. -/
theorem assembleTokens_some {labels : LabelTable} {pc : Nat} {toks : List Text} {w : Word}
    (h : assembleTokens labels pc toks = .ok (some w)) :
    ∃ m ops form, form ∈ asmForms.map Prod.snd ∧ assembleForm labels pc m ops form = .ok w := by
  cases toks with
  | nil => cases h
  | cons m ops =>
    cases known : asmTable.lookup m with
    | none => simp [assembleTokens, known] at h
    | some form =>
      rw [assembleTokens_cons known] at h
      refine ⟨m, ops, form, mem_asmForms_of_lookup known, ?_⟩
      cases answer : assembleForm labels pc m ops form with
      | error e => simp [answer, Except.map] at h
      | ok v => simpa [answer, Except.map] using h

/-- Pass 2 handles an instruction line by putting its Word, or else one warning, before what the lines after it give. -/
theorem encodeLines_instruction_ok {labels : LabelTable} {line : Text} {rest : List Line} {pc : Nat} {out : Assembled}
    (h : encodeLines labels (.instruction line :: rest) pc = .ok out) :
    ∃ tail, encodeLines labels rest (pc + 4) = .ok tail ∧
      ((∃ w, assembleTokens labels pc (tokens line) = .ok (some w) ∧ out = ⟨w :: tail.words, tail.warnings⟩) ∨
        ∃ warning, out = ⟨tail.words, warning :: tail.warnings⟩) := by
  simp only [encodeLines] at h
  cases first : assembleTokens labels pc (tokens line) with
  | error e => simp [first] at h
  | ok word =>
    cases after : encodeLines labels rest (pc + 4) with
    | error e => simp [first, after] at h
    | ok tail =>
      refine ⟨tail, rfl, ?_⟩
      cases word with
      | some w => exact .inl ⟨w, rfl, by simpa [first, after] using h.symm⟩
      | none => exact .inr ⟨_, by simpa [first, after] using h.symm⟩

/-- Every Word of pass 2 is the Word that the tokens of a line become. -/
theorem assembleTokens_of_mem_words {labels : LabelTable} {lines : List Line} {pc : Nat} {out : Assembled} {w : Word}
    (h : encodeLines labels lines pc = .ok out) (mem : w ∈ out.words) :
    ∃ pc line, assembleTokens labels pc (tokens line) = .ok (some w) := by
  induction lines generalizing pc out with
  | nil =>
    obtain rfl := Except.ok.inj h
    cases mem
  | cons first rest ih =>
    cases first with
    | instruction line =>
      obtain ⟨tail, after, ⟨v, own, rfl⟩ | ⟨warning, rfl⟩⟩ := encodeLines_instruction_ok h
      · rcases List.mem_cons.mp mem with rfl | later
        · exact ⟨pc, line, own⟩
        · exact ih after later
      · exact ih after mem
    | blank => exact ih h mem
    | comment => exact ih h mem
    | label name => exact ih h mem

/-- Pass 2 gives one Word or one warning for each instruction line. -/
theorem encodeLines_length {labels : LabelTable} {lines : List Line} {pc : Nat} {out : Assembled}
    (h : encodeLines labels lines pc = .ok out) :
    out.words.length + out.warnings.length = lines.countP Line.isInstruction := by
  induction lines generalizing pc out with
  | nil =>
    obtain rfl := Except.ok.inj h
    rfl
  | cons first rest ih =>
    cases first with
    | instruction line =>
      rw [List.countP_cons_of_pos rfl]
      obtain ⟨tail, after, ⟨w, -, rfl⟩ | ⟨warning, rfl⟩⟩ := encodeLines_instruction_ok h
      · simp only [← ih after, List.length_cons]; omega
      · simp only [← ih after, List.length_cons]; omega
    | blank => exact ih h
    | comment => exact ih h
    | label name => exact ih h

/-- An assembly that does not fail is pass 2 with the table of pass 1. -/
theorem assemble_ok {src : Text} {out : Assembled} (h : assemble src = .ok out) :
    ∃ labels, collectLabels (sourceLines src) 0 [] = .ok labels ∧ encodeLines labels (sourceLines src) 0 = .ok out := by
  unfold assemble at h
  cases first : collectLabels (sourceLines src) 0 [] with
  | error e => simp [first] at h
  | ok labels => exact ⟨labels, rfl, by simpa [first] using h⟩

/-- The error of a handler, at whatever address, is the error of the assembly once the lines before it have been handled. -/
theorem assemble_error_of_assembleForm {src : Text} {before after : List Line} {labels : LabelTable} {handled : Assembled}
    {line m : Text} {ops : List Text} {form : AsmForm} {e : AsmError}
    (split : sourceLines src = before ++ .instruction line :: after)
    (pass1 : collectLabels (sourceLines src) 0 [] = .ok labels) (pass2 : encodeLines labels before 0 = .ok handled)
    (toks : tokens line = m :: ops) (known : asmTable.lookup m = some form)
    (fails : ∀ pc, assembleForm labels pc m ops form = .error e) : assemble src = .error e := by
  have own : ∀ pc, assembleTokens labels pc (tokens line) = .error e := fun pc => by
    rw [toks, assembleTokens_cons known, fails]; rfl
  rw [assemble, pass1, split]
  exact encodeLines_error_aborts own pass2

end Sys2Proof.Machine
end

section
/-! The statements about the assembler (46_assembler.md), settled. -/

namespace Sys2Proof.Machine

open Sys2Proof.Laws

/-- Settles O50: every Word is the answer of the handler of a row of the mnemonic table, and each handler answers only words
whose opcode and funct3 the decoder takes for an assembler mnemonic. -/
theorem assembledWordsDecodeToAssemblerMnemonics : Obligations.AssembledWordsDecodeToAssemblerMnemonics := by
  intro src out h w mem
  obtain ⟨labels, -, pass2⟩ := assemble_ok h
  obtain ⟨pc, line, becomes⟩ := assembleTokens_of_mem_words pass2 mem
  obtain ⟨m, ops, form, known, answer⟩ := assembleTokens_some becomes
  exact assembleForm_onlyAnswers (asmForms_selectsMnemonic form known) labels pc m ops w answer

/-- Settles O47: the grammar accepts the one or two digits of a number below 32, and a reading answers what it accepts. -/
theorem registerTokensAreX0ToX31 : Obligations.RegisterTokensAreX0ToX31 := by
  refine ⟨fun t r => ⟨eq_repr_of_parseRegister, fun h => h ▸ parseRegister_repr r⟩, fun m token => ?_⟩
  cases read : token.bind parseRegister with
  | some r => exact .inl ⟨r, by rw [needRegister, read], rfl⟩
  | none => exact .inr ⟨by rw [needRegister, read], by rintro t rfl; exact read⟩

/-- Settles O48, by induction on the lines, the names bound so far standing before the names to come. -/
theorem labelsAreBoundToLineAddresses : Obligations.LabelsAreBoundToLineAddresses := by
  intro lines
  have nodup_of_ok {table : LabelTable} (h : collectLabels lines 0 [] = .ok table) : (labelNames lines).Nodup :=
    collectLabels_ok_nodup h List.nodup_nil
  have twice_of_error {e : AsmError} (h : collectLabels lines 0 [] = .error e) :
      ∃ name, 2 ≤ (labelNames lines).count name ∧ e = .duplicateLabel name := collectLabels_error h
  refine ⟨⟨fun ⟨_, h⟩ => nodup_of_ok h, fun nodup => ?_⟩, fun fails => ?_, fun table h before name after split => ?_⟩
  · cases h : collectLabels lines 0 [] with
    | ok table => exact ⟨table, rfl⟩
    | error e =>
      obtain ⟨name, twice, -⟩ := twice_of_error h
      have once := List.nodup_iff_count_le_one.mp nodup name
      omega
  · cases h : collectLabels lines 0 [] with
    | ok table => exact absurd h (fails table)
    | error e =>
      obtain ⟨name, twice, rfl⟩ := twice_of_error h
      exact ⟨name, twice, rfl⟩
  · rw [collectLabels_ok_lookup_label (split ▸ h), Nat.zero_add]

/-- Settles O49, by induction on the lines of pass 2. -/
theorem wordsAndWarningsCountInstructionLines : Obligations.WordsAndWarningsCountInstructionLines := by
  intro src out h
  obtain ⟨labels, -, pass2⟩ := assemble_ok h
  exact encodeLines_length pass2

/-- Settles O51: the handler encodes the difference of the two addresses, which is even and within 13 signed bits. -/
theorem branchOffsetIsLabelMinusAddress : Obligations.BranchOffsetIsLabelMinusAddress := by
  intro labels pc m t1 t2 name f3 rs1 rs2 known h1 h2
  rw [assembleTokens_cons known, assembleForm_branch h1 h2]
  refine ⟨fun address found aligned pcAligned ⟨lo, hi⟩ => ?_, fun unknown => ?_⟩
  · have read : needLabel labels m (some name) = .ok address := by rw [needLabel, Option.bind_some, found]
    have offset := decodeFields_encodeB_imm (by omega) lo hi rs2.toNat rs1.toNat f3
    exact ⟨_, by rw [read]; rfl, opcodeOf_packB .., (rs1Of_packB ..).trans (ofInt_toNat rs1),
      (rs2Of_packB ..).trans (ofInt_toNat rs2), offset,
      fun before => offset.trans_lt (by omega), fun after => lt_of_lt_of_eq (by omega) offset.symm⟩
  · rw [needLabel, Option.bind_some, unknown]; rfl

/-- Settles O53: each handler reads its operands left to right, and the error of a line whose predecessors are handled is the
error of the call. -/
theorem firstFailingOperandAbortsAssembly : Obligations.FirstFailingOperandAbortsAssembly := by
  intro src before after labels handled line m ops form split pass1 pass2 toks known shortAddressing
  have aborts {e : AsmError} (fails : ∀ pc, assembleForm labels pc m ops form = .error e) : assemble src = .error e :=
    assemble_error_of_assembleForm split pass1 pass2 toks known fails
  exact ⟨fun short => aborts fun _ => assembleForm_of_short short, fun long k kind position fails earlier =>
    aborts fun pc => assembleForm_abortsAtFirstFailure long labels pc m k kind position fails earlier⟩

end Sys2Proof.Machine
end

section
/-! SUPPORT. What the host's reset, edits and loads leave, and the texts that load: which ones fail, and that hex text loads
back as the Words it was written from. -/

namespace Sys2Proof.Machine

open Sys2Proof.Laws

/-! ## Reset and edits (47_host_interface.md R209 to R211) -/

theorem State.resetCore_x (s : State) (r : Reg) : s.resetCore.x r = Config.regSeed r := by
  by_cases h : r = 0
  · subst h; rfl
  · rw [State.x, if_neg h, State.resetCore_regs]
    simp [State.reset]

theorem State.resetCore_cell (s : State) (k : DataCell) : s.resetCore.cell k = Config.dmemSeed k := by
  simp [State.cell, State.reset]

/-- A register write changes the registers, nothing else. -/
theorem State.writeReg_eq_withRegs (s : State) (r : Reg) (v : Word) : ∃ rs, s.writeReg r v = { s with regs := rs } := by
  unfold State.writeReg
  split
  · exact ⟨s.regs, rfl⟩
  · exact ⟨_, rfl⟩

/-! ## Program load (47_host_interface.md R200 to R202) -/

/-- Instruction memory after a load: the program from cell 0, and zeros beyond it. -/
theorem State.loadWords_imem_getElem (s : State) (p : List Word) (k : Nat) (h : k < 256) :
    (s.loadWords p).imem[k] = if h' : k < p.length then p[k] else 0 := by
  rw [State.loadWords_imem, Vector.getElem_ofFn]
  change p.getD k 0 = _
  split
  · next inside => exact List.getD_eq_getElem p 0 inside
  · next beyond => exact List.getD_eq_default p 0 (Nat.le_of_not_lt beyond)

theorem State.loadText_fst (s : State) (src : Text) : (s.loadText src).1 = parseProgram src := by
  unfold State.loadText; cases parseProgram src <;> rfl

theorem State.loadText_of_ok {src : Text} {out : Assembled} (h : parseProgram src = .ok out) (s : State) :
    (s.loadText src).2 = s.loadWords out.words := by
  rw [State.loadText, h]

theorem State.loadText_of_error {src : Text} {e : LoadError} (h : parseProgram src = .error e) (s : State) :
    (s.loadText src).2 = s := by
  rw [State.loadText, h]

/-- A list of hex lines stands for their Words. -/
theorem hexProgram_of_hexLines {lines : List Text} (h : ∀ line ∈ lines, isHexLine line = true) :
    hexProgram lines = .ok (lines.map hexWord) := by
  induction lines with
  | nil => rfl
  | cons line rest ih =>
    obtain ⟨first, others⟩ := List.forall_mem_cons.mp h
    simp [hexProgram, first, ih others]

/-- Reading a list of lines as hex fails exactly when one of them is not one to eight hex digits. -/
theorem hexProgram_error_iff (lines : List Text) :
    (∃ e, hexProgram lines = .error e) ↔ ∃ line ∈ lines, isHexLine line = false := by
  induction lines with
  | nil => simp [hexProgram]
  | cons line rest ih =>
    rw [List.exists_mem_cons_iff, ← ih]
    cases first : isHexLine line with
    | false => simp [hexProgram, first]
    | true => cases others : hexProgram rest <;> simp [hexProgram, first, others]

theorem parseProgram_of_hex {src : Text} (h : isHexText src = true) :
    parseProgram src = (hexProgram (contentLines src)).map fun ws => ⟨ws, []⟩ := by
  rw [parseProgram, if_pos h]
  cases hexProgram (contentLines src) <;> rfl

theorem parseProgram_of_source {src : Text} (h : isHexText src = false) :
    parseProgram src = (assemble src).mapError LoadError.assembly := by
  rw [parseProgram, h]
  cases assemble src <;> rfl

/-- A text fails for a bad line if it is hex, and for an assembly error if it is source. -/
theorem parseProgram_error_iff (src : Text) : (∃ e, parseProgram src = .error e) ↔
    (isHexText src = true ∧ ∃ line ∈ contentLines src, isHexLine line = false) ∨
      (isHexText src = false ∧ ∃ e, assemble src = .error e) := by
  cases kind : isHexText src with
  | true =>
    rw [parseProgram_of_hex kind, ← hexProgram_error_iff]
    cases hexProgram (contentLines src) <;> simp [Except.map]
  | false =>
    rw [parseProgram_of_source kind]
    cases assemble src <;> simp [Except.mapError]

/-! ## Words as hex digits (47_host_interface.md R201) -/

theorem isHexDigit_hexDigit : ∀ d : BitVec 4, isHexDigit (hexDigit d) = true := by decide

theorem digitValue_hexDigit : ∀ d : BitVec 4, digitValue (hexDigit d) = d.toNat := by decide

theorem hexOfWord_all_hexDigits (w : Word) : ∀ c ∈ hexOfWord w, isHexDigit c = true := by
  intro c mem
  obtain ⟨bit, -, rfl⟩ := List.mem_map.mp mem
  exact isHexDigit_hexDigit _

theorem isHexLine_hexOfWord (w : Word) : isHexLine (hexOfWord w) = true := by
  have eight : (hexOfWord w).length = 8 := rfl
  rw [isHexLine, eight, List.all_eq_true.mpr (hexOfWord_all_hexDigits w)]; rfl

/-- The eight digits are the Word's number in base 16. -/
theorem numeral_hexOfWord (w : Word) : numeral 16 (hexOfWord w) = w.toNat := by
  have lt := w.isLt
  simp only [numeral, hexOfWord, List.map, List.foldl, digitValue_hexDigit, toNat_extractLsb']
  omega

theorem hexWord_hexOfWord (w : Word) : hexWord (hexOfWord w) = w := by
  rw [hexWord, numeral_hexOfWord, BitVec.ofNat_toNat, BitVec.setWidth_eq]

/-! ## The lines of a hex text (47_host_interface.md R201) -/

theorem not_isSpace_of_isHexDigit {c : Char} (h : isHexDigit c = true) : isSpace c = false := by
  by_contra space
  simp only [isSpace, Bool.not_eq_false, Bool.or_eq_true, beq_iff_eq, or_assoc] at space
  obtain rfl | rfl | rfl | rfl | rfl | rfl := space <;> exact absurd h (by decide)

theorem dropWhile_isSpace_of_hexDigits {t : Text} (h : ∀ c ∈ t, isHexDigit c = true) : t.dropWhile isSpace = t := by
  cases t with
  | nil => rfl
  | cons c cs => exact List.dropWhile_cons_of_neg (by simp [not_isSpace_of_isHexDigit (h c List.mem_cons_self)])

theorem trim_of_hexDigits {t : Text} (h : ∀ c ∈ t, isHexDigit c = true) : trim t = t := by
  have reversed : ∀ c ∈ t.reverse, isHexDigit c = true := fun c mem => h c (List.mem_reverse.mp mem)
  rw [trim, dropWhile_isSpace_of_hexDigits h, dropWhile_isSpace_of_hexDigits reversed, List.reverse_reverse]

/-- The first line ends at the first line feed. -/
theorem splitLines_append_newline {line : Text} (h : '\n' ∉ line) (rest : Text) :
    splitLines (line ++ '\n' :: rest) = line :: splitLines rest := by
  induction line with
  | nil => rfl
  | cons c cs ih =>
    obtain ⟨other, later⟩ := not_or.mp (mt List.mem_cons.mpr h)
    rw [List.cons_append, splitLines, if_neg (Ne.symm other), ih later]

/-- The lines of a hex text are its Words' digits, and an empty line after the last line feed. -/
theorem splitLines_hexText (ws : List Word) : splitLines (hexText ws) = ws.map hexOfWord ++ [[]] := by
  induction ws with
  | nil => rfl
  | cons w ws ih =>
    have oneLine : '\n' ∉ hexOfWord w := fun mem => absurd (hexOfWord_all_hexDigits w _ mem) (by decide)
    rw [hexText, splitLines_append_newline oneLine, ih]; rfl

theorem contentLines_hexText (ws : List Word) : contentLines (hexText ws) = ws.map hexOfWord := by
  have trimmed : (ws.map hexOfWord).map trim = ws.map hexOfWord := by
    rw [List.map_map]
    exact List.map_congr_left fun w _ => trim_of_hexDigits (hexOfWord_all_hexDigits w)
  have kept : (ws.map hexOfWord).filter (fun l => !l.isEmpty) = ws.map hexOfWord :=
    List.filter_eq_self.mpr fun l mem => by obtain ⟨w, -, rfl⟩ := List.mem_map.mp mem; rfl
  rw [contentLines, splitLines_hexText, List.map_append, List.filter_append, trimmed, kept]
  exact List.append_nil _

end Sys2Proof.Machine
end

section
/-! SUPPORT. The phase-by-phase step, by what it fetches: its boundaries, where a cancelled step stands and that it can be run
again, and what the full result says of the state the step reaches. -/

namespace Sys2Proof.Machine

open Sys2Proof.Laws

/-! ## The memory phase (40_datapath.md R94) -/

@[simp] theorem memoryPhase_regs (c : ControlSignals) (e : ExecuteResult) (s : State) :
    (memoryPhase c e s).regs = s.regs := by
  unfold memoryPhase; split <;> rfl

@[simp] theorem memoryPhase_pc (c : ControlSignals) (e : ExecuteResult) (s : State) :
    (memoryPhase c e s).pc = s.pc := by
  unfold memoryPhase; split <;> rfl

@[simp] theorem memoryPhase_cycle (c : ControlSignals) (e : ExecuteResult) (s : State) :
    (memoryPhase c e s).cycle = s.cycle := by
  unfold memoryPhase; split <;> rfl

@[simp] theorem memoryPhase_x (c : ControlSignals) (e : ExecuteResult) (s : State) (q : Reg) :
    (memoryPhase c e s).x q = s.x q :=
  State.x_congr (memoryPhase_regs c e s) q

/-- Only a store word enables the write of data memory. -/
theorem dataMemoryWriteEnable_iff (w : Word) :
    (controlOf (decodeFields w)).2.dataMemoryWriteEnable = true ↔ opcodeOf w = 0x23 := by
  by_cases op : opcodeOf w ∈ [(0x33 : BitVec 7), 0x13, 0x03, 0x23, 0x63]
  · simp only [List.mem_cons, List.not_mem_nil, or_false] at op
    obtain h | h | h | h | h := op
    · simp [controlOf_regReg h, h]
    · simp [controlOf_regImm h, h]
    · simp [controlOf_load h, h]
    · simp [controlOf_store h, h]
    · cases row : branchCondition (funct3Of w) <;> simp [controlOf_branch h, row, h, ControlSignals.none]
  · rw [controlOf_unexecuted op]
    exact iff_of_false Bool.false_ne_true fun h => op (by simp [h])

/-- The state of a fetched word that does not halt once its memory phase has ended. -/
def storedState (w : Word) (s : State) : State :=
  let c := (controlOf (decodeFields w)).2
  memoryPhase c (executePhase (decodeFields w) c s) s

theorem storedState_of_store {w : Word} (h : opcodeOf w = 0x23) (s : State) :
    storedState w s = s.memWrite (s.effectiveAddress (rs1Of w) (immSOf w)) (s.x (rs2Of w)) := by
  have imm : (decodeFields w).imm = sext12 (immSOf w) := by rw [decodeFields_imm, h]; rfl
  rw [storedState, controlOf_store h, State.effectiveAddress, ← imm]; rfl

theorem storedState_of_not_store {w : Word} (h : opcodeOf w ≠ 0x23) (s : State) : storedState w s = s :=
  if_neg (mt (dataMemoryWriteEnable_iff w).mp h)

/-- Run again after its memory phase, a step has the same outcome: a store puts the same Word in the same cell. -/
theorem step_storedState {s : State} {w : Word} (hs : s.halted = false) (f : s.fetch = some w) :
    step (storedState w s) = step s := by
  by_cases op : opcodeOf w = 0x23
  · rw [storedState_of_store op, step_of_fetch_some (s := s.memWrite _ _) hs f,
      step_of_fetch_some hs f, decode_store op]
    exact congrArg (fun stored => Host.Outcome.next (State.retire stored)) (s.memWrite_memWrite _ _ _)
  · rw [storedState_of_not_store op]

/-! ## The phase boundaries (47_host_interface.md R204, R205) -/

/-- The five boundaries of a step that executes its fetched word. -/
def executedCheckpoints (w : Word) (s : State) : List Checkpoint :=
  [⟨.fetch, fetchResult w s, s⟩, ⟨.decode, decodeResult w s, s⟩, ⟨.execute, executeResult w s, s⟩,
    ⟨.memory, memoryResult w s, storedState w s⟩, ⟨.writeBack, fullResult w s, executedState w s⟩]

theorem checkpoints_of_halted {s : State} (h : s.halted = true) : checkpoints s = [] := by simp [checkpoints, h]

theorem checkpoints_of_fetch_none {s : State} (h : s.halted = false) (f : s.fetch = none) :
    checkpoints s = [⟨.fetch, haltResult none s, s.halt⟩] := by
  simp [checkpoints, h, f]

theorem checkpoints_of_halting {s : State} {w : Word} (h : s.halted = false) (f : s.fetch = some w)
    (halt : isHaltingWord w = true) : checkpoints s = [⟨.fetch, haltResult (some w) s, s.halt⟩] := by
  simp [checkpoints, h, f, halt]

theorem checkpoints_of_executed {s : State} {w : Word} (h : s.halted = false) (f : s.fetch = some w)
    (run : isHaltingWord w ≠ true) : checkpoints s = executedCheckpoints w s := by
  simp only [checkpoints, h, f, run]; rfl

/-- Everything the synchronous and the phase-by-phase step do together: nothing on a halted core; halt in the fetch; or
execute the fetched word in five phases. -/
theorem step_checkpoints_cases (s : State) :
    (s.halted = true ∧ step s = .next s ∧ stepResult s = none ∧ checkpoints s = []) ∨
    (s.halted = false ∧ step s = .next s.halt ∧ stepResult s = some (haltResult s.fetch s) ∧
      checkpoints s = [⟨.fetch, haltResult s.fetch s, s.halt⟩]) ∨
    (s.halted = false ∧ ∃ w, s.fetch = some w ∧ step s = .next (executedState w s) ∧
      stepResult s = some (fullResult w s) ∧ checkpoints s = executedCheckpoints w s) := by
  cases h : s.halted
  case true => exact .inl ⟨rfl, step_of_halted h, congrArg Prod.fst (runStep_of_halted h), checkpoints_of_halted h⟩
  case false =>
    cases f : s.fetch with
    | none =>
      exact .inr (.inl ⟨rfl, step_of_fetch_none h f, congrArg Prod.fst (runStep_of_fetch_none h f),
        checkpoints_of_fetch_none h f⟩)
    | some w =>
      by_cases halt : isHaltingWord w = true
      · exact .inr (.inl ⟨rfl, (step_of_fetch_some h f).trans (exec_decode_of_halting halt s),
          congrArg Prod.fst (runStep_of_halting h f halt), checkpoints_of_halting h f halt⟩)
      · exact .inr (.inr ⟨rfl, w, rfl, (step_of_fetch_some h f).trans (exec_decode_eq_executedState halt s),
          congrArg Prod.fst (runStep_of_executed h f halt), checkpoints_of_executed h f halt⟩)

theorem checkpoints_phases_inOrder (s : State) :
    (checkpoints s).map Checkpoint.phase <+: [Phase.fetch, .decode, .execute, .memory, .writeBack] := by
  obtain ⟨-, -, -, c⟩ | ⟨-, -, -, c⟩ | ⟨-, w, -, -, -, c⟩ := step_checkpoints_cases s <;> rw [c]
  · exact ⟨_, rfl⟩
  · exact ⟨_, rfl⟩
  · exact ⟨_, rfl⟩

/-! ## Cancelled steps (47_host_interface.md R208; decision D25) -/

/-- A step that is not cancelled ends in the state of its last boundary. -/
theorem cancelAfter_of_five_le {n : Nat} (h : 5 ≤ n) (s : State) :
    cancelAfter n s = ((checkpoints s).getLast?.map Checkpoint.state).getD s := by
  have five : (checkpoints s).length ≤ 5 := by simpa using (checkpoints_phases_inOrder s).length_le
  rw [cancelAfter, List.take_of_length_le (five.trans h)]

/-- A step cancelled before its write-back has changed nothing, has halted, or has ended its memory phase. -/
theorem cancelAfter_cases {n : Nat} (h : n ≤ 4) (s : State) :
    cancelAfter n s = s ∨ (cancelAfter n s = s.halt ∧ step s = .next s.halt) ∨
      (n = 4 ∧ s.halted = false ∧ ∃ w, s.fetch = some w ∧ cancelAfter n s = storedState w s) := by
  cases n with
  | zero => exact .inl rfl
  | succ n =>
    obtain ⟨-, -, -, c⟩ | ⟨-, e, -, c⟩ | ⟨hs, w, f, -, -, c⟩ := step_checkpoints_cases s
    · exact .inl (by rw [cancelAfter, c]; rfl)
    · exact .inr (.inl ⟨by rw [cancelAfter, c, List.take_succ_cons, List.take_nil]; rfl, e⟩)
    · obtain rfl | lt : n = 3 ∨ n < 3 := by omega
      · exact .inr (.inr ⟨rfl, hs, w, f, by rw [cancelAfter, c]; rfl⟩)
      · exact .inl (by rw [cancelAfter, c]; interval_cases n <;> rfl)

/-! ## The full result and the state reached (47_host_interface.md R206) -/

@[simp] theorem writeBackPhase_dmem (cls : OpClass) (d : Decoded) (c : ControlSignals) (e : ExecuteResult)
    (m : Option MemoryAccess) (s : State) : (writeBackPhase cls d c e m s).dmem = s.dmem := by
  unfold writeBackPhase; split <;> simp

/-- The write-back writes its target when it is enabled, which it never is for register 0. -/
theorem writeBackPhase_x (cls : OpClass) (d : Decoded) (c : ControlSignals) (e : ExecuteResult)
    (m : Option MemoryAccess) (s : State) (q : Reg) : (writeBackPhase cls d c e m s).x q =
      if writeBackEnable cls d = true ∧ q = d.rd then writeBackValue c e m else s.x q := by
  rw [writeBackPhase, State.x_retireTo]
  by_cases enabled : writeBackEnable cls d = true
  · have rd : d.rd ≠ 0 := bne_iff_ne.mp (Bool.and_eq_true_iff.mp enabled).2
    simp only [State.x_writeReg, enabled, rd, if_true, ne_eq, not_false_eq_true, and_true, true_and]
  · rw [if_neg enabled, if_neg fun both => enabled both.1]

theorem executedState_dmem (w : Word) (s : State) : (executedState w s).dmem = (storedState w s).dmem :=
  writeBackPhase_dmem ..

/-- The reported write-back is the one register write of the step, if it is enabled. -/
theorem executedState_x (w : Word) (s : State) : ∃ v, (fullResult w s).writeBack = some ⟨rdOf w, v⟩ ∧
    ∀ q, (executedState w s).x q = if (fullResult w s).wbEnable = true ∧ q = rdOf w then v else s.x q :=
  ⟨_, rfl, fun q => (writeBackPhase_x _ _ _ _ _ _ q).trans (by rw [memoryPhase_x]; rfl)⟩

theorem fullResult_pcAfter (w : Word) (s : State) : (fullResult w s).pcAfter = some (executedState w s).pc := by
  have next (d : Decoded) (c : ControlSignals) (e : ExecuteResult) :
      nextPc d c e (memoryPhase c e s) = nextPc d c e s := by simp only [nextPc, memoryPhase_pc]
  exact congrArg (fun target => some (alignPc target)) (next _ _ _).symm

/-- The reported data access: the store of the memory phase, or no store and at most a read of data memory as it was. -/
theorem fullResult_memory_cases (w : Word) (s : State) :
    (∃ addr v, (fullResult w s).memory = some ⟨addr, dataCell addr, v, true⟩ ∧ storedState w s = s.memWrite addr v) ∨
    (storedState w s = s ∧ ((fullResult w s).memory = none ∨
      ∃ addr, (fullResult w s).memory = some ⟨addr, dataCell addr, s.memRead addr, false⟩)) := by
  by_cases write : (controlOf (decodeFields w)).2.dataMemoryWriteEnable = true
  · exact .inl ⟨_, _, if_pos write, if_pos write⟩
  · refine .inr ⟨if_neg write, ?_⟩
    by_cases load : opcodeOf w = 0x03
    · exact .inr ⟨_, (if_neg write).trans (if_pos load)⟩
    · exact .inl ((if_neg write).trans (if_neg load))

/-- A reported data access names the cell of its address; a store left its data there, and a load found it there. -/
theorem fullResult_memory_data {w : Word} {s : State} {m : MemoryAccess} (h : (fullResult w s).memory = some m) :
    m.index = dataCell m.address ∧ (m.isWrite = true → (executedState w s).cell m.index = m.data) ∧
      (m.isWrite = false → s.cell m.index = m.data) := by
  obtain ⟨addr, v, report, stored⟩ | ⟨-, none_made | ⟨addr, report⟩⟩ := fullResult_memory_cases w s
  · obtain rfl := Option.some.inj (h.symm.trans report)
    refine ⟨rfl, fun _ => ?_, nofun⟩
    rw [State.cell_congr (executedState_dmem w s), stored]
    exact (s.cell_setCell _ _ v).trans (if_pos rfl)
  · exact nomatch h.symm.trans none_made
  · obtain rfl := Option.some.inj (h.symm.trans report)
    exact ⟨rfl, nofun, fun _ => rfl⟩

/-- A change of data memory is a reported store. -/
theorem fullResult_memory_of_dmem_changed {w : Word} {s : State} (changed : (executedState w s).dmem ≠ s.dmem) :
    ∃ m, (fullResult w s).memory = some m ∧ m.isWrite = true := by
  obtain ⟨addr, v, report, -⟩ | ⟨unchanged, -⟩ := fullResult_memory_cases w s
  · exact ⟨_, report, rfl⟩
  · exact absurd ((executedState_dmem w s).trans (congrArg State.dmem unchanged)) changed

end Sys2Proof.Machine
end

section
/-! The statements about the host's interface (47_host_interface.md), settled. -/

namespace Sys2Proof.Machine

/-- Settles O42: a load fails exactly when its text does, and then the core is not touched. -/
theorem failedLoadChangesNothing : Obligations.FailedLoadChangesNothing := by
  intro s src
  rw [State.loadText_fst]
  exact ⟨parseProgram_error_iff src, fun ⟨_, fails⟩ => State.loadText_of_error fails s⟩

/-- Settles O44, by the boundaries of a halted, a halting and an executed step. -/
theorem phasedStepEqualsStep : Obligations.PhasedStepEqualsStep := by
  intro s
  refine ⟨fun n h => ?_, ?_, checkpoints_phases_inOrder s⟩
  · rw [cancelAfter_of_five_le h]
    obtain ⟨-, e, -, c⟩ | ⟨-, e, -, c⟩ | ⟨-, w, -, e, -, c⟩ := step_checkpoints_cases s <;> rw [e, c] <;> rfl
  · obtain ⟨-, -, r, c⟩ | ⟨-, -, r, c⟩ | ⟨-, w, -, -, r, c⟩ := step_checkpoints_cases s <;> rw [r, c] <;> rfl

/-- Settles O45, by where a cancelled step stands: an early halt is the halt of the step, and an early store is stored again. -/
theorem cancelledStepCanBeRunAgain : Obligations.CancelledStepCanBeRunAgain := by
  refine fun s n => ⟨fun h => ?_, fun h => ?_, fun h => ?_⟩
  · obtain e | ⟨e, halts⟩ | ⟨-, hs, w, f, e⟩ := cancelAfter_cases h s
    · rw [e]
    · rw [e, halts, step_of_halted s.halt_halted]
    · rw [e, step_storedState hs f]
  · obtain e | ⟨e, -⟩ | ⟨rfl, -⟩ := cancelAfter_cases (h.trans (by decide)) s
    · exact .inl e
    · exact .inr e
    · exact absurd h (by decide)
  · obtain e | ⟨e, -⟩ | ⟨-, -, w, -, e⟩ := cancelAfter_cases h s
    · rw [e]; exact ⟨rfl, rfl, rfl⟩
    · rw [e]; exact ⟨rfl, rfl, rfl⟩
    · rw [e]; exact ⟨memoryPhase_regs _ _ s, memoryPhase_pc _ _ s, memoryPhase_cycle _ _ s⟩

/-- Settles O46: a halted core has no result, a halting step's is the halt-marked one, and an executed step's is the full one,
whose fields agree with the state the datapath reaches. -/
theorem stepResultReportsTheStep : Obligations.StepResultReportsTheStep := by
  intro s t r h result
  obtain ⟨-, -, absent, -⟩ | ⟨-, e, halted, -⟩ | ⟨hs, w, f, e, full, -⟩ := step_checkpoints_cases s
  · exact nomatch result.symm.trans absent
  · obtain rfl := Host.Outcome.next.inj (h.symm.trans e)
    obtain rfl := Option.some.inj (result.symm.trans halted)
    exact ⟨rfl, rfl, rfl, rfl, nofun, fun _ => s.x_halt, nofun, fun changed => absurd rfl changed,
      fun _ => ⟨rfl, rfl, rfl, rfl, rfl, rfl⟩, nofun⟩
  · obtain rfl := Host.Outcome.next.inj (h.symm.trans e)
    obtain rfl := Option.some.inj (result.symm.trans full)
    obtain ⟨v, report, x⟩ := executedState_x w s
    refine ⟨f.symm, rfl, fullResult_pcAfter w s, ((executedState_halted w s).trans hs).symm, fun enabled => ?_,
      fun disabled q => ?_, fun m => fullResult_memory_data, fullResult_memory_of_dmem_changed, nofun,
      fun w' same _ => Option.some.inj same ▸ rfl⟩
    · exact ⟨_, report, (x _).trans (if_pos ⟨enabled, rfl⟩), fun q other => (x q).trans (if_neg fun both => other both.2)⟩
    · exact (x q).trans (if_neg fun both => Bool.false_ne_true (disabled.symm.trans both.1))

/-- Settles O52: the content lines of the text are the digits of the Words, each of which reads back as its Word; the empty
text is assembler source without a line. -/
theorem hexTextLoadsBack : Obligations.HexTextLoadsBack := by
  intro ws
  cases ws with
  | nil => rfl
  | cons w ws =>
    have hex : isHexText (hexText (w :: ws)) = true := by
      rw [isHexText, contentLines_hexText]; exact isHexLine_hexOfWord w
    have lines : ∀ line ∈ (w :: ws).map hexOfWord, isHexLine line = true :=
      List.forall_mem_map.mpr fun v _ => isHexLine_hexOfWord v
    have words : hexWord ∘ hexOfWord = id := funext hexWord_hexOfWord
    rw [parseProgram_of_hex hex, contentLines_hexText, hexProgram_of_hexLines lines, List.map_map, words, List.map_id]
    rfl

/-- Settles O39, by the fields of the reset state. -/
theorem resetRestoresSeeds : Obligations.ResetRestoresSeeds := fun s =>
  ⟨rfl, rfl, rfl, s.resetCore_x, s.resetCore_cell, rfl, State.instrByte_congr s.resetCore_imem⟩

/-- Settles O41: the loaded state is the reset state but for instruction memory, which holds the program alone. -/
theorem loadPlacesProgramAndResets : Obligations.LoadPlacesProgramAndResets := by
  refine ⟨fun s p => ⟨s.loadWords_imem_getElem p, rfl, fun _ => rfl⟩, fun s src out h => ?_⟩
  rw [State.loadText_fst] at h
  exact ⟨h, State.loadText_of_ok h s⟩

/-- Settles O43: a register edit is a register write of the low 32 bits, a data-memory edit sets a cell. -/
theorem editsChangeOnePlace : Obligations.EditsChangeOnePlace := by
  refine fun s => ⟨fun i v => ⟨fun q => ?_, s.writeReg_eq_withRegs i _⟩, fun k v => ⟨fun j => s.cell_setCell k j v, _, rfl⟩⟩
  have low : BitVec.ofNat 32 (v % 2 ^ 32) = BitVec.ofNat 32 v := BitVec.eq_of_toNat_eq (by simp)
  rw [low]
  exact s.x_writeReg i q _

end Sys2Proof.Machine
end

section
/-! SUPPORT. The decoder and the encoder as inverses of each other (30_encoding.md sections 2, 4 and 5): the halting and
the unrecognised words by their fields, and each opcode's part of the decoder against the formats. -/

namespace Sys2Proof.Laws

/-! ## The halting and the unrecognised words (30_encoding.md R71, R72) -/

/-- A word is a halting word exactly when its fields are those of one. -/
theorem isHaltingWord_eq_haltingFields (w : Word) : isHaltingWord w =
    Instr.haltingFields (funct7Of w) (rs2Of w) (rs1Of w) (funct3Of w) (rdOf w) (opcodeOf w) := by
  refine Bool.eq_iff_iff.mpr ⟨fun h => ?_, fun h => ?_⟩
  · obtain rfl | rfl | rfl := (isHaltingWord_iff w).mp h <;> rfl
  · simp only [Instr.haltingFields, Bool.and_eq_true, Bool.or_eq_true, beq_iff_eq] at h
    obtain ⟨⟨⟨⟨f7, rs1⟩, f3⟩, rd⟩, ⟨op, rs2⟩ | ⟨op, rs2 | rs2⟩⟩ := h <;>
      rw [← packR_fields w, f7, rs1, f3, rd, op, rs2] <;> rfl

/-- Every other word whose opcode has no row of its own is unrecognised, with all its fields. -/
theorem decode_unrecognised {w : Word} (run : isHaltingWord w ≠ true) (op : opcodeOf w ∉ Instr.ownOpcodes) :
    decode w = .unrecognised (funct7Of w) (rs2Of w) (rs1Of w) (funct3Of w) (rdOf w) (opcodeOf w) := by
  simp only [ne_eq, isHaltingWord_iff, not_or] at run
  simp only [Instr.ownOpcodes, List.mem_cons, List.not_mem_nil, or_false, not_or] at op
  simp only [decode, run, op, if_false]

/-! ## Decoding an encoded instruction -/

theorem decode_encode {i : Instr} (wf : i.WellFormed) : decode (encode i) = i := by
  cases i
  case haltZero | haltEcall | haltEbreak => rfl
  case sll | slt | sltu | xor | or | and => rw [encode, decode_regReg (opcodeOf_packR ..)]; simp [decodeRegReg]
  case add | sub | srl | sra =>
    -- the well-formedness fixes bit 5 of funct7, which is word bit 30
    simp only [Instr.WellFormed, Instr.wellFormed] at wf
    rw [encode, decode_regReg (opcodeOf_packR ..)]
    simpa [decodeRegReg] using wf
  case addi | slli | slti | sltiu | xori | ori | andi =>
    rw [encode, decode_regImm (opcodeOf_packI ..)]; simp [decodeRegImm]
  case srli | srai =>
    -- the well-formedness fixes bit 10 of the immediate, which is word bit 30
    simp only [Instr.WellFormed, Instr.wellFormed] at wf
    rw [encode, decode_regImm (opcodeOf_packI ..)]
    simpa [decodeRegImm] using wf
  case lw => rw [encode, decode_load (opcodeOf_packI ..)]; simp
  case sw => rw [encode, decode_store (opcodeOf_packS ..)]; simp
  case beq offset | bne offset | blt offset | bge offset | bltu offset | bgeu offset | branchFunct3_010 offset
      | branchFunct3_011 offset =>
    have even : offset.getLsbD 0 = false := by simpa [Instr.WellFormed, Instr.wellFormed] using wf
    rw [encode, decode_branch (opcodeOf_packB ..)]
    simp [decodeBranch, immBOf_packB_even _ _ _ _ _ even]
  case lui => rw [encode, decode_lui (opcodeOf_packU ..)]; simp
  case jal offset =>
    have even : offset.getLsbD 0 = false := by simpa [Instr.WellFormed, Instr.wellFormed] using wf
    rw [encode, decode_jal (opcodeOf_packJ ..)]
    simp [immJOf_packJ_even _ _ _ even]
  case unrecognised =>
    simp only [Instr.WellFormed, Instr.wellFormed, Bool.and_eq_true, Bool.not_eq_true'] at wf
    obtain ⟨own, halt⟩ := wf
    rw [encode, decode_unrecognised]
    · simp
    · simp [isHaltingWord_eq_haltingFields, halt]
    · simpa using own

/-! ## Encoding a decoded word -/

theorem encode_decodeRegReg (w : Word) : encode (decodeRegReg w) =
    packR (funct7Of w) (rs2Of w) (rs1Of w) (funct3Of w) (rdOf w) 0x33 := by
  obtain f3 | f3 | f3 | f3 | f3 | f3 | f3 | f3 := funct3_cases (funct3Of w) <;> rw [decodeRegReg, f3] <;>
    cases bit30 w <;> rfl

/-- Bit 5 of funct7 is the word bit 30 that tells SUB from ADD and SRA from SRL. -/
theorem decodeRegReg_wellFormed (w : Word) : (decodeRegReg w).WellFormed := by
  have bit := funct7Of_bit5 w
  unfold decodeRegReg
  split_ifs <;> simp_all [Instr.WellFormed, Instr.wellFormed]

theorem encode_decodeRegImm (w : Word) : encode (decodeRegImm w) =
    packI (immIOf w) (rs1Of w) (funct3Of w) (rdOf w) 0x13 := by
  obtain f3 | f3 | f3 | f3 | f3 | f3 | f3 | f3 := funct3_cases (funct3Of w) <;> rw [decodeRegImm, f3] <;>
    cases bit30 w <;> rfl

/-- Bit 10 of the immediate is the word bit 30 that tells SRAI from SRLI. -/
theorem decodeRegImm_wellFormed (w : Word) : (decodeRegImm w).WellFormed := by
  have bit := immIOf_bit10 w
  unfold decodeRegImm
  split_ifs <;> simp_all [Instr.WellFormed, Instr.wellFormed]

theorem encode_decodeBranch (w : Word) : encode (decodeBranch w) =
    packB (immBOf w) (rs2Of w) (rs1Of w) (funct3Of w) 0x63 := by
  obtain f3 | f3 | f3 | f3 | f3 | f3 | f3 | f3 := funct3_cases (funct3Of w) <;> rw [decodeBranch, f3] <;> rfl

theorem decodeBranch_wellFormed (w : Word) : (decodeBranch w).WellFormed := by
  have even : (!(immBOf w).getLsbD 0) = true := congrArg (!·) (immBOf_even w)
  unfold decodeBranch
  split_ifs <;> exact even

theorem decode_wellFormed_and_encode (w : Word) : (decode w).WellFormed ∧ encode (decode w) = w := by
  by_cases own : opcodeOf w ∈ Instr.ownOpcodes
  · simp only [Instr.ownOpcodes, List.mem_cons, List.not_mem_nil, or_false] at own
    obtain op | op | op | op | op | op | op := own
    · rw [decode_regReg op]; exact ⟨decodeRegReg_wellFormed w, by rw [encode_decodeRegReg, ← op, packR_fields]⟩
    · rw [decode_regImm op]; exact ⟨decodeRegImm_wellFormed w, by rw [encode_decodeRegImm, ← op, packI_fields]⟩
    · rw [decode_load op]; exact ⟨rfl, by rw [encode, ← op, packI_fields]⟩
    · rw [decode_store op]; exact ⟨rfl, by rw [encode, ← op, packS_fields]⟩
    · rw [decode_branch op]; exact ⟨decodeBranch_wellFormed w, by rw [encode_decodeBranch, ← op, packB_fields]⟩
    · rw [decode_lui op]; exact ⟨rfl, by rw [encode, ← op, packU_fields]⟩
    · rw [decode_jal op]; exact ⟨congrArg (!·) (immJOf_even w), by rw [encode, ← op, packJ_fields]⟩
  · by_cases halt : isHaltingWord w = true
    · obtain rfl | rfl | rfl := (isHaltingWord_iff w).mp halt <;> exact ⟨rfl, rfl⟩
    · rw [decode_unrecognised halt own]
      refine ⟨?_, packR_fields w⟩
      rw [isHaltingWord_eq_haltingFields] at halt
      simp [Instr.WellFormed, Instr.wellFormed, own, halt]

end Sys2Proof.Laws
end

section
/-! The statements about the decoder and the encoder as inverses (30_encoding.md), settled. -/

namespace Sys2Proof

open Sys2Proof.Laws

/-- Settles O1, constructor by constructor: the opcode selects the decoder's part, and every field comes back. -/
theorem decodeRecoversEncodedInstruction : Obligations.DecodeRecoversEncodedInstruction := fun _ wf => decode_encode wf

/-- Settles O2, opcode by opcode: each part of the decoder keeps the fields of the word, which pack to it again. -/
theorem everyWordIsOneWellFormedInstruction : Obligations.EveryWordIsOneWellFormedInstruction :=
  decode_wellFormed_and_encode

end Sys2Proof
end

section
/-! SUPPORT. The rows of the opcode table against the decoder (30_encoding.md sections 5 and 6): each instruction has a row
of its mnemonic, no two rows but the last share a word, and the last takes what the decoder leaves unrecognised. -/

namespace Sys2Proof.Laws

/-- The row of an instruction's mnemonic takes its word. -/
theorem OpcodeRow.statement : ∀ i : Instr, OpcodeRow.Statement i
  | .haltZero => haltZero | .haltEcall => haltEcall | .haltEbreak => haltEbreak
  | .add rd rs1 rs2 f7 => add rd rs1 rs2 f7 | .sub rd rs1 rs2 f7 => sub rd rs1 rs2 f7
  | .sll rd rs1 rs2 f7 => sll rd rs1 rs2 f7 | .slt rd rs1 rs2 f7 => slt rd rs1 rs2 f7
  | .sltu rd rs1 rs2 f7 => sltu rd rs1 rs2 f7 | .xor rd rs1 rs2 f7 => xor rd rs1 rs2 f7
  | .srl rd rs1 rs2 f7 => srl rd rs1 rs2 f7 | .sra rd rs1 rs2 f7 => sra rd rs1 rs2 f7
  | .or rd rs1 rs2 f7 => or rd rs1 rs2 f7 | .and rd rs1 rs2 f7 => and rd rs1 rs2 f7
  | .addi rd rs1 imm => addi rd rs1 imm | .slli rd rs1 imm => slli rd rs1 imm | .slti rd rs1 imm => slti rd rs1 imm
  | .sltiu rd rs1 imm => sltiu rd rs1 imm | .xori rd rs1 imm => xori rd rs1 imm | .srli rd rs1 imm => srli rd rs1 imm
  | .srai rd rs1 imm => srai rd rs1 imm | .ori rd rs1 imm => ori rd rs1 imm | .andi rd rs1 imm => andi rd rs1 imm
  | .lw rd rs1 imm f3 => lw rd rs1 imm f3 | .sw rs2 rs1 imm f3 => sw rs2 rs1 imm f3
  | .beq rs1 rs2 o => beq rs1 rs2 o | .bne rs1 rs2 o => bne rs1 rs2 o | .blt rs1 rs2 o => blt rs1 rs2 o
  | .bge rs1 rs2 o => bge rs1 rs2 o | .bltu rs1 rs2 o => bltu rs1 rs2 o | .bgeu rs1 rs2 o => bgeu rs1 rs2 o
  | .branchFunct3_010 rs1 rs2 o => branchFunct3_010 rs1 rs2 o
  | .branchFunct3_011 rs1 rs2 o => branchFunct3_011 rs1 rs2 o
  | .lui rd imm => lui rd imm | .jal rd o => jal rd o
  | .unrecognised f7 rs2 rs1 f3 rd op => unrecognised f7 rs2 rs1 f3 rd op

/-- The rows of the table that fix some bits of a word: all but the last. -/
def ownRows : List TableRow := opcodeTable.dropLast

theorem opcodeTable_eq_ownRows_append : opcodeTable = ownRows ++ [⟨"unrecognised", 0x00000000, 0x00000000⟩] := rfl

/-- Two of these rows whose patterns agree where both masks look are one row. -/
theorem ownRows_eq_of_agree : ∀ r ∈ ownRows, ∀ r' ∈ ownRows,
    r.pattern &&& r'.mask = r'.pattern &&& r.mask → r = r' := by
  decide

theorem ownRows_eq_of_take {w : Word} {r r' : TableRow} (mem : r ∈ ownRows) (mem' : r' ∈ ownRows)
    (takes : w &&& r.mask = r.pattern) (takes' : w &&& r'.mask = r'.pattern) : r = r' :=
  ownRows_eq_of_agree r mem r' mem' (by
    rw [← takes, ← takes', BitVec.and_assoc, BitVec.and_assoc, BitVec.and_comm r.mask])

/-- Each of these rows is a halting word's, compared whole, or looks at the whole opcode and has one of the own opcodes. -/
theorem ownRows_fix : ∀ r ∈ ownRows, (r.mask = BitVec.allOnes 32 ∧ isHaltingWord r.pattern = true) ∨
    (opcodeOf r.mask = BitVec.allOnes 7 ∧ opcodeOf r.pattern ∈ Instr.ownOpcodes) := by
  decide

theorem halting_or_own_of_take {w : Word} {r : TableRow} (mem : r ∈ ownRows) (takes : w &&& r.mask = r.pattern) :
    isHaltingWord w = true ∨ opcodeOf w ∈ Instr.ownOpcodes := by
  rcases ownRows_fix r mem with ⟨mask, halt⟩ | ⟨mask, own⟩
  · rw [mask, BitVec.and_allOnes] at takes
    exact .inl (takes ▸ halt)
  · have same : opcodeOf r.pattern = opcodeOf w := by
      rw [← takes, opcodeOf, BitVec.extractLsb'_and]
      exact (congrArg (opcodeOf w &&& ·) mask).trans BitVec.and_allOnes
    exact .inr (same ▸ own)

/-- The decoder leaves unrecognised only words that none of these rows takes. -/
theorem not_halting_nor_own_of_mnemonic {w : Word} (h : (decode w).mnemonic = "unrecognised") :
    ¬ (isHaltingWord w = true ∨ opcodeOf w ∈ Instr.ownOpcodes) := by
  obtain ⟨wf, enc⟩ := decode_wellFormed_and_encode w
  generalize decode w = i at h wf enc
  subst enc
  cases i
  case unrecognised f7 rs2 rs1 f3 rd op =>
    simp only [Instr.WellFormed, Instr.wellFormed, Bool.and_eq_true, Bool.not_eq_true'] at wf
    obtain ⟨own, halt⟩ := wf
    rw [isHaltingWord_eq_haltingFields]
    simpa [encode, halt] using own
  all_goals exact absurd h (by simp [Instr.mnemonic])

end Sys2Proof.Laws
end

section
/-! The statement about the opcode table (30_encoding.md sections 5 and 6), settled. -/

namespace Sys2Proof

open Sys2Proof.Laws

/-- Settles O7: a row but the last that takes the word is the row of the decoded instruction, and where none does, that row
is the last. -/
theorem decoderFollowsFirstMatchingTableRow : Obligations.DecoderFollowsFirstMatchingTableRow := by
  intro w
  obtain ⟨wf, enc⟩ := decode_wellFormed_and_encode w
  obtain ⟨r, mem, name, takes⟩ := OpcodeRow.statement (decode w) wf
  rw [enc] at takes
  rw [opcodeTable_eq_ownRows_append, List.mem_append, List.mem_singleton] at mem
  rw [firstTableRow, opcodeTable_eq_ownRows_append, List.find?_append]
  cases first : ownRows.find? fun r => w &&& r.mask == r.pattern with
  | some r' =>
    have mem' := List.mem_of_find?_eq_some first
    have takes' : w &&& r'.mask = r'.pattern := by simpa using List.find?_some first
    refine ⟨r', rfl, ?_⟩
    obtain mem | rfl := mem
    · rw [ownRows_eq_of_take mem' mem takes' takes, name]
    · exact absurd (halting_or_own_of_take mem' takes') (not_halting_nor_own_of_mnemonic name.symm)
  | none =>
    obtain mem | rfl := mem
    · exact absurd takes (by simpa using List.find?_eq_none.mp first r mem)
    · exact ⟨_, by simp, name⟩

end Sys2Proof
end

section
/-! SUPPORT. Pieces of an integer immediate in their places (30_encoding.md R64 to R66). -/

namespace Sys2Proof.Laws

/-- Bits `[lo + len - 1 : lo]` of an integer masked to a width are its Word shifted down and masked to the piece. -/
theorem setWidth_extractLsb'_ofInt {n lo len : Nat} (inside : lo + len ≤ n) (h : n ≤ 32) (v : Int) :
    ((BitVec.ofInt n v).extractLsb' lo len).setWidth 32 = (BitVec.ofInt 32 v >>> lo) &&& BitVec.ofNat 32 (2 ^ len - 1) := by
  ext i hi
  have mask : (BitVec.ofNat 32 (2 ^ len - 1))[i] = decide (i < len) := by
    simp [← BitVec.getLsbD_eq_getElem, BitVec.getLsbD_ofNat, Nat.testBit_two_pow_sub_one, hi]
  by_cases piece : i < len
  · have low : lo + i < n := by omega
    simp [ofInt_eq_setWidth_ofInt h, mask, piece, low]
  · simp [mask, piece]

end Sys2Proof.Laws
end

section
/-! The statements about the split formats and the example words (30_encoding.md section 4; 95_test_vectors.md), settled. -/

namespace Sys2Proof

open Sys2Proof.Laws

/-- Settles O5: each field is its argument masked and each piece of the immediate its Word shifted down and masked, put in
their places. -/
theorem encodersOfSplitFormatsPlacePieces : Obligations.EncodersOfSplitFormatsPlacePieces := by
  intro rs2 rs1 f3 rd op imm
  refine ⟨?_, ?_, ?_⟩
  · simp (disch := decide) only [encodeB, packB, putAt, setWidth_extractLsb'_ofInt, setWidth_ofInt, BitVec.shiftLeft_zero,
      Nat.reducePow, Nat.reduceSub]
  · simp (disch := decide) only [encodeU, packU, putAt, setWidth_ofInt, BitVec.shiftLeft_zero, Nat.reducePow, Nat.reduceSub]
  · simp (disch := decide) only [encodeJ, packJ, putAt, setWidth_extractLsb'_ofInt, setWidth_ofInt, BitVec.shiftLeft_zero,
      Nat.reducePow, Nat.reduceSub]

/-- Settles O8, by running the decoder on the fourteen words. -/
theorem exampleWordsDecode : Obligations.ExampleWordsDecode := by
  unfold Obligations.ExampleWordsDecode
  decide

end Sys2Proof
end

section
/-! SUPPORT. The flag outputs of the ALU as sums out of range, the operation codes, and the control unit by opcode class
(40_datapath.md R81, R85 to R91). -/

namespace Sys2Proof.Machine

open Sys2Proof.Laws

/-! ## The flag outputs (40_datapath.md R86) -/

/-- Bit 32 of a 33-bit number says that it is 2^32 or more. -/
theorem getLsbD_32_iff (v : BitVec 33) : v.getLsbD 32 = true ↔ 2 ^ 32 ≤ v.toNat := by
  rw [← BitVec.msb_eq_getLsbD_last, BitVec.msb_eq_decide, decide_eq_true_iff]

theorem aluCarry_add_iff (a b : Word) : aluCarry .add a b = true ↔ 2 ^ 32 ≤ a.toNat + b.toNat := by
  rw [aluCarry, getLsbD_32_iff, BitVec.toNat_add, BitVec.toNat_setWidth, BitVec.toNat_setWidth]
  omega

theorem aluCarry_sub_iff (a b : Word) : aluCarry .sub a b = true ↔ b.toNat ≤ a.toNat := by
  have one : (1 : BitVec 33).toNat = 1 := rfl
  rw [aluCarry, getLsbD_32_iff, BitVec.toNat_add, BitVec.toNat_add, BitVec.toNat_setWidth, BitVec.toNat_setWidth,
    BitVec.toNat_not, one]
  omega

theorem aluOverflow_add_eq (a b : Word) : aluOverflow .add a b = a.saddOverflow b := by
  rw [BitVec.saddOverflow_eq]; rfl

theorem aluOverflow_sub_eq (a b : Word) : aluOverflow .sub a b = a.ssubOverflow b := by
  rw [BitVec.ssubOverflow_eq, aluOverflow, alu]
  cases a.msb <;> cases b.msb <;> cases (a - b).msb <;> rfl

/-! ## The operation codes (40_datapath.md R81, R85) -/

theorem aluOpOfCode_code (op : AluOp) : aluOpOfCode op.code = some op := by cases op <;> rfl

/-- A code that names an operation is that operation's. -/
theorem aluOpOfCode_all_code : ∀ c : BitVec 4, (aluOpOfCode c).all (fun op => op.code == c) = true := by decide

/-- A code that is no operation's names none and stands past the last of the 14. -/
theorem aluOpOfCode_of_unknown {c : BitVec 4} (unknown : ∀ op : AluOp, op.code ≠ c) :
    aluOpOfCode c = none ∧ 14 ≤ c.toNat := by
  have nameless : aluOpOfCode c = none := by
    cases named : aluOpOfCode c with
    | none => rfl
    | some op => exact absurd (by simpa [named] using aluOpOfCode_all_code c) (unknown op)
  exact ⟨nameless, List.getElem?_eq_none_iff.mp nameless⟩

/-! ## The control unit (40_datapath.md R88 to R91) -/

/-- Of funct7 the control unit sees bit 5 (decision D8). -/
theorem control_congr {f7 f7' : BitVec 7} (bit : f7'.getLsbD 5 = f7.getLsbD 5) (op : BitVec 7) (f3 : BitVec 3) :
    control op f3 f7' = control op f3 f7 := by
  rw [control, control, bit]

theorem arithmeticOp_ne_seq (f3 : BitVec 3) (altAdd altShift : Bool) : arithmeticOp f3 altAdd altShift ≠ .seq := by
  unfold arithmeticOp
  split_ifs <;> decide

/-- A branch row selects one of the three comparators. -/
theorem branchCondition_comparator {f3 : BitVec 3} {cmp : AluOp} {invert : Bool}
    (h : branchCondition f3 = some (cmp, invert)) : cmp ∈ [AluOp.beqCmp, .bltCmp, .bltuCmp] := by
  unfold branchCondition at h
  split_ifs at h <;> cases h <;> decide

/-- Everything the control unit answers: the class and the signals of one of the five opcodes of the table, or the default
for every other opcode and for a branch word without a row. -/
theorem control_cases (op : BitVec 7) (f3 : BitVec 3) (f7 : BitVec 7) :
    (op = 0x33 ∧ ∃ alu, alu ≠ .seq ∧ control op f3 f7 = (.R, ⟨false, false, false, false, false, alu⟩)) ∨
    (op = 0x13 ∧ ∃ alu, alu ≠ .seq ∧ control op f3 f7 = (.IAlu, ⟨true, false, false, false, false, alu⟩)) ∨
    (op = 0x03 ∧ control op f3 f7 = (.Load, ⟨true, true, false, false, false, .add⟩)) ∨
    (op = 0x23 ∧ control op f3 f7 = (.Store, ⟨true, false, true, false, false, .add⟩)) ∨
    (op = 0x63 ∧ ∃ cmp ∈ [AluOp.beqCmp, .bltCmp, .bltuCmp], ∃ invert,
      control op f3 f7 = (.Branch, ⟨false, false, false, true, invert, cmp⟩)) ∨
    (op ∉ [(0x33 : BitVec 7), 0x13, 0x03, 0x23] ∧ control op f3 f7 = (.Unrecognised, ControlSignals.none)) := by
  by_cases executed : op ∈ [(0x33 : BitVec 7), 0x13, 0x03, 0x23, 0x63]
  · simp only [List.mem_cons, List.not_mem_nil, or_false] at executed
    obtain rfl | rfl | rfl | rfl | rfl := executed
    · exact .inl ⟨rfl, _, arithmeticOp_ne_seq _ _ _, rfl⟩
    · exact .inr (.inl ⟨rfl, _, arithmeticOp_ne_seq _ _ _, rfl⟩)
    · exact .inr (.inr (.inl ⟨rfl, rfl⟩))
    · exact .inr (.inr (.inr (.inl ⟨rfl, rfl⟩)))
    · cases row : branchCondition f3 with
      | none => exact .inr (.inr (.inr (.inr (.inr ⟨by decide, by simp [control, row]⟩))))
      | some branch =>
        have comparator := branchCondition_comparator row
        exact .inr (.inr (.inr (.inr (.inl ⟨rfl, _, comparator, branch.2, by simp [control, row]⟩))))
  · have other : op ∉ [(0x33 : BitVec 7), 0x13, 0x03, 0x23] := fun mem => executed (List.mem_append_left [0x63] mem)
    simp only [List.mem_cons, List.not_mem_nil, or_false, not_or] at executed
    exact .inr (.inr (.inr (.inr (.inr ⟨other, by simp only [control, executed, if_false]⟩))))

end Sys2Proof.Machine
end

section
/-! The statements about the flag outputs, the operation codes and the control table (40_datapath.md), settled. -/

namespace Sys2Proof.Machine

/-- Settles O12: the carry is bit 32 of the 33-bit sum, the overflow the library's signed overflow of the sum and of the
difference. -/
theorem flagOutputsReportCarryAndOverflow : Obligations.FlagOutputsReportCarryAndOverflow := by
  intro a b
  refine ⟨aluCarry_add_iff a b, aluCarry_sub_iff a b, ?_, ?_, fun op add sub => ?_⟩
  · rw [aluOverflow_add_eq]
    simp [BitVec.saddOverflow, or_comm]
  · rw [aluOverflow_sub_eq]
    simp [BitVec.ssubOverflow, or_comm]
  · cases op
    case add => exact absurd rfl add
    case sub => exact absurd rfl sub
    all_goals exact ⟨rfl, rfl⟩

/-- Settles O13: a code is read from the list of the 14 operations, past whose end it names none. -/
theorem operationCodesAreDistinctAndUnknownReturnZero : Obligations.OperationCodesAreDistinctAndUnknownReturnZero := by
  refine ⟨aluOpOfCode_code, fun c a b unknown => ?_⟩
  obtain ⟨nameless, past⟩ := aluOpOfCode_of_unknown unknown
  exact ⟨by rw [aluByCode, nameless], past⟩

/-- Settles O14, by what the control unit answers for each class. -/
theorem controlSignalsFollowClass : Obligations.ControlSignalsFollowClass := by
  intro op f3 f7
  obtain ⟨rfl, alu, ne, e⟩ | ⟨rfl, alu, ne, e⟩ | ⟨rfl, e⟩ | ⟨rfl, e⟩ | ⟨rfl, cmp, mem, invert, e⟩ | ⟨other, e⟩ :=
    control_cases op f3 f7 <;> rw [e] <;> refine ⟨fun f7' bit => (control_congr bit _ f3).trans e, ?_⟩
  · simp [ne]
  · simp [ne]
  · simp
  · simp
  · have ne : cmp ≠ .seq := by rintro rfl; exact absurd mem (by decide)
    simpa [ne] using mem
  · simpa [ControlSignals.none] using other

end Sys2Proof.Machine
end

section
/-! SUPPORT. The fetch in numbers, and how a running core stops: where the pc is out of range, or at a halting word
(20_memory.md R36; 60_exceptions.md R221 to R227). -/

namespace Sys2Proof.Machine

open Sys2Proof.Laws

/-! ## The fetch in numbers (20_memory.md R36) -/

theorem fetchIndex_toNat (pc : Word) : (fetchIndex pc).toNat = pc.toNat / 4 := by
  rw [fetchIndex, toNat_extractLsb']
  omega

theorem State.fetch_of_inside {s : State} (inside : s.pc.toNat / 4 < 256) : s.fetch = some s.imem[s.pc.toNat / 4] := by
  simp [State.fetch, fetchIndex_toNat, inside]

theorem State.fetch_of_outside {s : State} (outside : ¬ s.pc.toNat / 4 < 256) : s.fetch = none := by
  simp [State.fetch, fetchIndex_toNat, outside]

/-! ## How a running core stops -/

theorem step_of_halting {s : State} {w : Word} (h : s.halted = false) (f : s.fetch = some w)
    (halt : isHaltingWord w = true) : step s = .next s.halt :=
  (step_of_fetch_some h f).trans (exec_decode_of_halting halt s)

theorem step_of_executed {s : State} {w : Word} (h : s.halted = false) (f : s.fetch = some w)
    (run : isHaltingWord w ≠ true) : step s = .next (executedState w s) :=
  (step_of_fetch_some h f).trans (exec_decode_eq_executedState run s)

/-! ## What leaves the halted state (60_exceptions.md R227) -/

/-- A step does nothing on a halted core. -/
theorem State.stepped_of_halted {s : State} (h : s.halted = true) : s.stepped = s :=
  Host.Outcome.next.inj ((step_stepped s).symm.trans (step_of_halted h))

/-- On a halted core every event but reset and load leaves the flag set. -/
theorem Event.apply_halted_iff {s : State} (h : s.halted = true) (e : Event) :
    (e.apply s).halted = false ↔ e = .reset ∨ ∃ p, e = .load p := by
  cases e <;> simp [Event.apply, State.stepped_of_halted, h]

/-- The BEQ of register 0 with itself at offset 0 goes back to its own address. -/
theorem step_of_self_branch {s : State} (low : s.pc.extractLsb' 0 2 = 0) (h : s.halted = false)
    (f : s.fetch = some 0x00000063) : step s = .next { s with cycle := s.cycle + 1 } := by
  have target : s.branchTarget (immBOf 0x00000063) = s.pc := BitVec.add_zero s.pc
  rw [step_of_fetch_some h f, decode_branch rfl, exec_decodeBranch, if_pos (.inl ⟨rfl, rfl⟩), target]
  rw [State.retireTo, State.setPc, alignPc_of_low low]; rfl

end Sys2Proof.Machine
end

section
/-! The statements about the step and the halted state (40_datapath.md section 3; 60_exceptions.md; 70_reset_and_hazards.md),
settled. -/

namespace Sys2Proof.Machine

open Sys2Proof.Laws

/-- Settles O22, by what the fetch inside instruction memory answers. -/
theorem stepRunsDecodedInstruction : Obligations.StepRunsDecodedInstruction := by
  rintro s i inside h rfl
  exact step_of_fetch_some h (State.fetch_of_inside inside)

/-- Settles O25: each halting word's instruction is the `halt` primitive. -/
theorem haltingWordStopsTheCore : Obligations.HaltingWordStopsTheCore :=
  fun _ w h f word => step_of_halting h f ((isHaltingWord_iff w).mpr word)

/-- Settles O26: outside instruction memory, and inside it at a halting word, the step is the `halt` primitive; every other
word is executed, which keeps the flag. -/
theorem fourEventsEndExecution : Obligations.FourEventsEndExecution := by
  intro s t h e
  by_cases inside : s.pc.toNat / 4 < 256
  · have f := State.fetch_of_inside inside
    by_cases halt : isHaltingWord s.imem[s.pc.toNat / 4] = true
    · obtain rfl := Host.Outcome.next.inj (e.symm.trans (step_of_halting h f halt))
      exact ⟨iff_of_true rfl (.inr ⟨inside, (isHaltingWord_iff _).mp halt⟩), fun _ => rfl⟩
    · obtain rfl := Host.Outcome.next.inj (e.symm.trans (step_of_executed h f halt))
      have running : ¬ (executedState s.imem[s.pc.toNat / 4] s).halted = true := by simp [h]
      refine ⟨iff_of_false running ?_, fun halted => absurd halted running⟩
      rintro (outside | ⟨_, word⟩)
      · omega
      · exact halt ((isHaltingWord_iff _).mpr word)
  · obtain rfl := Host.Outcome.next.inj (e.symm.trans (step_of_fetch_none h (State.fetch_of_outside inside)))
    exact ⟨iff_of_true rfl (.inl (by omega)), fun _ => rfl⟩

/-- Settles O38: the flag event by event, the branch to itself, and the MRET word, which is unrecognised. -/
theorem onlyResetAndLoadLeaveHalted : Obligations.OnlyResetAndLoadLeaveHalted := by
  refine ⟨fun e s h => ⟨e.apply_halted_iff h, fun cleared => ?_, State.stepped_of_halted h⟩,
    fun s inv h f => step_of_self_branch inv.2 h f, fun s h f => ?_⟩
  · obtain rfl | ⟨p, rfl⟩ := (e.apply_halted_iff h).mp cleared <;> exact ⟨rfl, rfl, rfl⟩
  · exact onlyAdvances_of_next ((step_of_fetch_some h f).trans (exec_decode_of_unexecuted (by decide) (by decide) s))

/-- Settles O40: the power-on state is a reset with empty instruction memory, and the zero word at address 0 halts. -/
theorem freshCoreHaltsAtOnce : Obligations.FreshCoreHaltsAtOnce :=
  ⟨rfl, fun _ h => Vector.getElem_replicate h, haltingWordStopsTheCore State.reset 0 rfl rfl (.inl rfl)⟩

end Sys2Proof.Machine
end
